-- ==== Sys2Proof/Word.lean ====
section
/-! DEFINITION. The words of the Wenbrik 7120: octets and characters of its serial lines, the numbers of its objects. -/

namespace Sys2Proof

/-- One octet on a serial line (R161, R177). -/
abbrev Octet := BitVec 8

/-- Text of a line on the supervisory link, one character a position. -/
abbrev Text := List Char

/-- A mover, M0..M7 (00_scope, Naming Conventions). -/
abbrev MoverNo := Fin 8

/-- A station record, S0..S23. -/
abbrev StationNo := Fin 24

/-- A clearance rule, C0..C15. -/
abbrev RuleNo := Fin 16

/-- A segment slot, 0..255 (R31). -/
abbrev SlotNo := Fin 256

/-- A value of the timebase: milliseconds, wrapping at 2^32 (R1). -/
abbrev Time := BitVec 32

end Sys2Proof
end

