-- ==== Sys2Proof/Config.lean ====
section
/-! DEFINITION. The fixed sizes of the part. The manual leaves no value to an implementation, so there is no free value here. -/

namespace Sys2Proof.Config

/-- Waiting lines the input buffer holds (R164). -/
def inputBufferSize : Nat := 4

/-- FULL replies that may wait for the transmitter (R164, R169). -/
def fullReplyLimit : Nat := 4

/-- Characters of a command line, its CR LF included (R162). -/
def lineLimit : Nat := 200

/-- Where the link error count stops (R163). -/
def linkErrorLimit : Nat := 65535

/-- Notices a class queue holds (R178). -/
def noticeQueueSize : Nat := 16

/-- Requests a line's service queue holds (R142). -/
def serviceQueueSize : Nat := 4

/-- Stations a line holds (R145). -/
def stationsPerLine : Nat := 12

/-- Slots of the Segment Pool (R31). -/
def poolSize : Nat := 256

/-- The longest dwell, in ms: STAGE clamps T to it (R40). -/
def dwellLimit : Nat := 600000

/-- The log threshold at power-up (R53, R185). -/
def logThresholdAtPowerUp : Nat := 8

end Sys2Proof.Config
end

