-- ==== Sys2Proof/Syntax.lean ====
section
/-! DEFINITION. The commands of the part: one constructor of `Instr` for each row of spec/opcode_table.json. -/

namespace Sys2Proof

/-- The two track lines. -/
inductive LineId
  | A
  | B
deriving DecidableEq, Repr

/-- A character as RXD receives it: its eight data bits and whether its stop bit was good (R161, R162). -/
structure RxChar where
  octet : Octet
  goodStop : Bool
deriving DecidableEq, Repr

/-- A frame as a track line receives it: its octets, whether one of them had a bad stop bit (R177), and whether it comes late: for an
exchange that has ended before it, by its timeout (R149) or abandoned (R144, R147). The part tells a late frame by when its reception
began, a time below the model's millisecond (DESIGN CHOICE, log entry 35). -/
structure Frame where
  octets : List Octet
  badStop : Bool
  late : Bool := false
deriving DecidableEq, Repr

/-- What stands on a command line beside its verb: the tag and the tokens after the verb (R162, R165). -/
structure CommandLine where
  tag : Text
  tokens : List Text
deriving DecidableEq, Repr

/-- A hold reason; CLEARANCE comes with the numbers of the rules that hold the mover (R13). -/
inductive HoldReason
  | operator
  | link
  | wind
  | clearance (rules : List RuleNo)
deriving DecidableEq, Repr

/-- The commands, in the table's order. A verb's operand is the command line that is executed. -/
inductive Instr
  /-- POWER_ON: the levels of RESET, STOPIN (open) and BAUDSEL (high) when power comes. -/
  | powerOn (resetLow stopOpen baudHigh : Bool)
  /-- RESET_ASSERT -/
  | resetAssert
  /-- RESET_RELEASE: the level of BAUDSEL (high) at the release. -/
  | resetRelease (baudHigh : Bool)
  /-- STOPIN_OPENING -/
  | stopinOpening
  /-- STOPIN_CLOSING -/
  | stopinClosing
  /-- LINE_RECEIVED: the characters of the line, to its CR LF. -/
  | lineReceived (line : List RxChar)
  /-- UNKNOWN_VERB: the verb as written, and the line. -/
  | unknownVerb (verb : Text) (ln : CommandLine)
  | defmover (ln : CommandLine)
  | go (ln : CommandLine)
  | hold (ln : CommandLine)
  | resume (ln : CommandLine)
  | stop (ln : CommandLine)
  | estop (ln : CommandLine)
  | ackfault (ln : CommandLine)
  | moverstat (ln : CommandLine)
  | stage (ln : CommandLine)
  | flush (ln : CommandLine)
  | logread (ln : CommandLine)
  | poolstat (ln : CommandLine)
  | setpower (ln : CommandLine)
  | powerstat (ln : CommandLine)
  | defrule (ln : CommandLine)
  | rulestat (ln : CommandLine)
  | setwx (ln : CommandLine)
  | setplan (ln : CommandLine)
  | settrig (ln : CommandLine)
  | wxstat (ln : CommandLine)
  | defline (ln : CommandLine)
  | defstn (ln : CommandLine)
  | service (ln : CommandLine)
  | linestat (ln : CommandLine)
  | stnstat (ln : CommandLine)
  | supervise (ln : CommandLine)
  | beat (ln : CommandLine)
  | linkstat (ln : CommandLine)
  | clearall (ln : CommandLine)
  | setnote (ln : CommandLine)
  /-- TRANSMIT_LINE_END -/
  | transmitLineEnd
  /-- SUPERVISION_TIMER_EXPIRY -/
  | supervisionTimerExpiry
  /-- LINE_PERIOD_EXPIRY -/
  | linePeriodExpiry (l : LineId)
  /-- FRAME_RECEIVED -/
  | frameReceived (l : LineId) (f : Frame)
  /-- RESPONSE_TIMEOUT -/
  | responseTimeout (l : LineId)
  /-- SERVICE_REPLY_RECEIVED -/
  | serviceReplyReceived (l : LineId) (f : Frame)
  /-- SERVICE_TIMEOUT -/
  | serviceTimeout (l : LineId)
  /-- TRACK_SET_COMPLETE -/
  | trackSetComplete (m : MoverNo)
  /-- HOLD_REASON_ADDITION -/
  | holdReasonAddition (m : MoverNo) (r : HoldReason)
  /-- HOLD_REASON_REMOVAL -/
  | holdReasonRemoval (m : MoverNo) (r : HoldReason)
  | tlockExpiry (m : MoverNo)
  | tbrkExpiry (m : MoverNo)
  | tstopExpiry (m : MoverNo)
  | dwellExpiry (m : MoverNo)
  | alignTimerExpiry (m : MoverNo)
  /-- REPORT_ARRIVAL: the source that reported. -/
  | reportArrival (st : StationNo)
  /-- SOURCE_LOSS: the source that was lost. -/
  | sourceLoss (st : StationNo)
  | releaseTimerExpiry
  /-- TRIGGER_FIRING -/
  | triggerFiring (m : MoverNo)
  /-- CHARACTER_ARRIVAL -/
  | characterArrival (c : RxChar)
deriving DecidableEq, Repr

end Sys2Proof
end

