-- ==== Sys2Proof/Machine/State.lean ====
section
/-! DEFINITION. Everything the manual gives the part, as plain data. A field's default is its power-up value, so that a block
at its power-up values is written as the empty structure. -/

namespace Sys2Proof.Machine

/-! ## Movers (01_movers) -/

/-- CLASS of a mover record (R2): wind acts on EXPOSED movers. -/
inductive MoverClass
  | exposed
  | sheltered
deriving DecidableEq, Repr

/-- The mover record, set by DEFMOVER (R2). Millimetres, mm/s, mm/s², kW and ms as on the link; offsets in µm. -/
structure MoverRec where
  tracks : List StationNo := []
  offs : List Int := []
  lo : Nat := 0
  hi : Nat := 0
  ovt : Nat := 0
  vmax : Nat := 0
  amax : Nat := 0
  dmax : Nat := 0
  vcreep : Nat := 0
  prated : Nat := 0
  vrated : Nat := 0
  prio : Nat := 7
  cls : MoverClass := .sheltered
  lockst : Option StationNo := none
  skw : Nat := 0
  skt : Nat := 0
  skh : Nat := 0
  fol : Nat := 0
  kc : Nat := 0
  tcl : Nat := 0
  tbrk : Nat := 2000
  tlock : Nat := 20000
  tstop : Nat := 15000
  talign : Nat := 120000
  cap : Nat := 16
  low : Nat := 1
deriving DecidableEq, Repr

/-- The mover states (01_movers, Mover States). -/
inductive MoverState
  | unconfigured
  | idle
  | awaitPower
  | unlocking
  | releasing
  | running
  | holding
  | held
  | ending
  | stopping
  | stopped
  | fault
deriving DecidableEq, Repr

/-- The hold-reason set (R13). CLEARANCE is present while its list of rules is not empty. -/
structure HoldSet where
  operator : Bool := false
  link : Bool := false
  wind : Bool := false
  clearance : List RuleNo := []
deriving DecidableEq, Repr

/-- The fault kinds of R23, and STOP_UNCONFIRMED, which only a secondary set holds (R26). -/
inductive FaultKind
  | feedback
  | drive
  | overtravel
  | lock
  | brake
  | stopTimeout
  | skew
  | follow
  | align
  | stopUnconfirmed
deriving DecidableEq, Repr

/-- The fault record (R26). Positions in µm. -/
structure FaultRec where
  primary : FaultKind
  time : Time
  p : Int
  mean : Option Int
  secondary : List FaultKind
  stopComplete : Bool
deriving DecidableEq, Repr

/-- A direction of travel: outward is +1, inward −1 (R57). -/
inductive Dir
  | outward
  | inward
deriving DecidableEq, Repr

/-- What the Trim and Skew Monitor keeps of the last update at which every track had a measured position (R78, R79). In µm and µm/s. -/
structure Trim where
  measured : List Int
  errors : List Int
  corrections : List Int
  mean : Int
  skew : Int
deriving DecidableEq, Repr

/-! ## Segments (02) -/

/-- KIND of a segment with the fields of that kind, as staged and clamped (R35). -/
inductive SegKind
  | move (target : Int) (v a d : Nat)
  | dwell (t : Nat)
  | align
deriving DecidableEq, Repr

/-- A field STAGE may clamp (R40), in the order of the clamp list. -/
inductive ClampField
  | target
  | v
  | a
  | d
  | t
deriving DecidableEq, Repr

/-- Where a segment came from (R35). -/
inductive Origin
  | staged
  | plan
deriving DecidableEq, Repr

/-- The staged part of a segment record, with the slot that carries it (R35). -/
structure Segment where
  slot : SlotNo
  mover : MoverNo
  tag : Nat
  kind : SegKind
  lock : Bool
  clamps : List ClampField
  origin : Origin
deriving DecidableEq, Repr

/-- The execution part of a segment record (R36). Positions and skew in µm. -/
structure ExecPart where
  startTime : Option Time := none
  pathStart : Option Int := none
  dir : Option Dir := none
  dwellLeft : Nat := 0
  peakSkew : Int := 0
  derated : Bool := false
  stopMark : Bool := false
deriving DecidableEq, Repr

/-- The segment in a mover's executing place (R31, R33). -/
structure Executing where
  seg : Segment
  part : ExecPart
deriving DecidableEq, Repr

/-- OUTCOME of a completion record (R37). -/
inductive SegOutcome
  | arrived
  | dwelled
  | aligned
  | cut
  | faulted
  | flushed
deriving DecidableEq, Repr

/-- A record of the completion log: staged part, execution part as it stood, completion part (R31, R37). The end position is the
mean in µm; the reply gives it in mm. A FLUSHED segment has no execution part. -/
structure LogRecord where
  seg : Segment
  part : Option ExecPart
  outcome : SegOutcome
  endTime : Time
  endPos : Option Int
  faultKind : Option FaultKind
deriving DecidableEq, Repr

/-- One Mover Sequencer with its chain and executing place (00_scope block table, R33). -/
structure Mover where
  record : Option MoverRec := none
  state : MoverState := .unconfigured
  holdSet : HoldSet := {}
  fault : Option FaultRec := none
  p : Int := 0
  v : Nat := 0
  dir : Option Dir := none
  residue : Nat := 0
  positionUnset : Bool := false
  marks : List Bool := []
  unlocked : Bool := false
  stopInProgress : Bool := false
  /-- HOLDING: the brake order is given (R15). STOPPING, FAULT: every track was stopped and BRAKE APPLY is written (R21, R27). -/
  brakeOrdered : Bool := false
  endBrakeSeen : Bool := false
  endLockSeen : Bool := false
  /-- The segment that ended the chain carried LOCK=1 (R19). -/
  endLock : Bool := false
  tlock : Option Nat := none
  tbrk : Option Nat := none
  tstop : Option Nat := none
  /-- What the alignment timer has left since the alignment set-up (R78, R91). -/
  alignLeft : Option Nat := none
  trim : Option Trim := none
  skewWarn : Bool := false
  chain : List Segment := []
  exec : Option Executing := none
deriving DecidableEq, Repr

/-- The Segment Pool's own lists (R32, R50, R53): the top of the free list and the oldest record stand first. -/
structure Pool where
  free : List SlotNo := List.finRange 256
  log : List LogRecord := []
  logArm : Bool := true
deriving DecidableEq, Repr

/-! ## Power Arbiter (05) -/

/-- The arbitration modes (R93). -/
inductive PowerMode
  | priority
  | rotate
deriving DecidableEq, Repr

/-- An entry of the waiting list (R93, R94). -/
structure PowerRequest where
  mover : MoverNo
  req : Nat
  min : Nat
deriving DecidableEq, Repr

/-- The Power Arbiter (R93, R108). -/
structure Arbiter where
  budget : Nat := 0
  mode : PowerMode := .priority
  grants : Vector Nat 8 := Vector.replicate 8 0
  waiting : List PowerRequest := []
  pointer : MoverNo := 0
deriving DecidableEq, Repr

/-! ## Clearance Table (06) -/

/-- The state of a rule (R109): OPEN is had by no mover, HELD by G, RELEASED by K. -/
inductive RuleState
  | free
  | held
  | released
deriving DecidableEq, Repr

/-- A defined clearance rule (R109). Zone and region in mm. `refused` holds the movers whose most recent request the rule refused: while
such a mover needs the rule and does not have it, the rule gives it a stop point (R117). -/
structure Rule where
  g : MoverNo
  zlo : Nat
  zhi : Nat
  k : MoverNo
  rlo : Nat
  rhi : Nat
  state : RuleState
  waiting : List MoverNo
  refused : List MoverNo := []
deriving DecidableEq, Repr

/-! ## Weather Monitor (07) -/

/-- The thresholds of SETWX (R126): wind in 0.1 m/s units, REL in seconds. -/
structure WxThresholds where
  w1 : Nat
  w2 : Nat
  gh : Nat
  rel : Nat
deriving DecidableEq, Repr

/-- The wind figure (R126, R128). -/
structure WindFigure where
  mean : Nat
  gust : Nat
deriving DecidableEq, Repr

/-- The wind hold (R126). -/
inductive WindHold
  | clear
  | engaged
  | releasing
deriving DecidableEq, Repr

/-- The motion of a STAGE or SETPLAN line as written: omitted V, A and D stay omitted (R38, R135). -/
inductive MotionKind
  | move (target : Int) (v a d : Option Nat)
  | dwell (t : Nat)
  | align
deriving DecidableEq, Repr

/-- A segment description as STAGE and SETPLAN give it; a plan is stored in this form (R135). -/
structure Motion where
  tag : Nat
  kind : MotionKind
  lock : Bool
deriving DecidableEq, Repr

/-- The trigger settings of one mover (R126). -/
structure Trigger where
  masked : Bool := true
  plan : Option Motion := none
  pendingFlag : Bool := false
deriving DecidableEq, Repr

/-- The Weather Monitor (R126). -/
structure Weather where
  sources : List StationNo := []
  thresholds : Option WxThresholds := none
  figure : Option WindFigure := none
  derate : Nat := 0
  hold : WindHold := .engaged
  releaseTimer : Option Nat := none
  wet : Bool := false
  triggers : Vector Trigger 8 := Vector.replicate 8 {}
deriving DecidableEq, Repr

/-! ## Track lines and stations (08) -/

/-- TYPE of a station (R145). -/
inductive StationType
  | drive
  | lock
  | weather
deriving DecidableEq, Repr

/-- STATE in a DRIVE report (R154). -/
inductive DriveState
  | ready
  | running
  | stopping
  | tripped
  | disabled
deriving DecidableEq, Repr

/-- BRAKE in a DRIVE report (R154). -/
inductive BrakeReport
  | applied
  | released
  | travelling
deriving DecidableEq, Repr

/-- STATE in a LOCK report (R154). -/
inductive LockReport
  | engaged
  | withdrawn
  | moving
  | jammed
deriving DecidableEq, Repr

/-- The payload of a valid report (R145, R154). POS in µm; MEAN and GUST in 0.1 m/s. -/
inductive Report
  | drive (pos : Int) (state : DriveState) (brake : BrakeReport)
  | lock (state : LockReport)
  | weather (mean gust : Nat) (wet : Bool)
deriving DecidableEq, Repr

/-- BRAKE in an order (R153). -/
inductive BrakeOrder
  | apply
  | release
deriving DecidableEq, Repr

/-- MODE in an order (R153). -/
inductive DriveMode
  | normal
  | quick
deriving DecidableEq, Repr

/-- CMD of a LOCK order (R153). -/
inductive LockCmd
  | keep
  | engage
  | withdraw
deriving DecidableEq, Repr

/-- The order image of a station (R153). VEL in µm/s. -/
inductive Image
  | drive (vel : Int) (brake : BrakeOrder) (mode : DriveMode)
  | lock (cmd : LockCmd)
  | weather
deriving DecidableEq, Repr

/-- ONLINE, STALE or LOST (R145). -/
inductive Health
  | online
  | stale
  | lost
deriving DecidableEq, Repr

/-- A stored report with the timebase value at which it was stored (R145, R151). -/
structure StoredReport where
  report : Report
  time : Time
deriving DecidableEq, Repr

/-- A defined station record (R145). -/
structure Station where
  line : LineId
  addr : Nat
  type : StationType
  owner : Option MoverNo
  source : Bool
  health : Health
  misses : Nat
  report : Option StoredReport
  image : Image
deriving DecidableEq, Repr

/-- PER, TMO and MISS (R142). -/
structure LineSettings where
  per : Nat
  tmo : Nat
  miss : Nat
deriving DecidableEq, Repr

/-- A service request (R157). VAL is absent for a READ. -/
structure ServiceRequest where
  id : BitVec 8
  station : StationNo
  write : Bool
  par : Nat
  val : Option Int
deriving DecidableEq, Repr

/-- Where a line is in its round (R148, R149, R155, R157). -/
inductive LinePhase
  | betweenRounds
  | exchange (st : StationNo)
  | serviceExchange (r : ServiceRequest)
deriving DecidableEq, Repr

/-- A track line controller (R142). -/
structure LineCtl where
  polling : Bool := false
  record : Option LineSettings := none
  /-- The settings the round under way runs under (R144). -/
  current : LineSettings := ⟨0, 0, 0⟩
  round : BitVec 8 := 0
  period : Option Nat := none
  /-- The period timer expired while the round was under way (R156). -/
  overdue : Bool := false
  overrun : Bool := false
  queue : List ServiceRequest := []
  phase : LinePhase := .betweenRounds
  /-- The response timeout of the exchange under way (R149, R158). -/
  response : Option Nat := none
  /-- The frame the part sent last on this line (R149, R158, R177). -/
  sent : List Octet := []
deriving DecidableEq, Repr

/-! ## Notices (10) -/

/-- The notice classes, in rank order (R178). -/
inductive NoticeClass
  | safety
  | motion
  | weather
  | line
deriving DecidableEq, Repr

/-- CAUSE of a lost link (R173). -/
inductive LinkCause
  | timeout
  | early
deriving DecidableEq, Repr

/-- CAUSE of a WIND_HOLD (R130). -/
inductive WindCause
  | mean
  | gust
  | noSource
deriving DecidableEq, Repr

/-- The first test a trigger launch failed (R138). -/
inductive LaunchRefusal
  | stopOpen
  | feedback
  | poolEmpty
deriving DecidableEq, Repr

/-- RES of a LINE SERVICE notice (R158). -/
inductive ServiceResult
  | ok
  | refused
  | noReply
deriving DecidableEq, Repr

/-- The notices of R179 with their fields. -/
inductive NoticeKind
  | stopOpen
  | stopClosed
  | fault (m : MoverNo) (kind : FaultKind)
  | linkLost (cause : LinkCause)
  | triggered (m : MoverNo) (tag : Nat) (slot : SlotNo) (flushed : Nat)
  | triggerFailed (m : MoverNo) (reason : LaunchRefusal)
  | held (m : MoverNo) (hold : HoldSet)
  | powerWait (m : MoverNo) (req min free : Nat)
  | clearanceWait (m : MoverNo) (rule : RuleNo) (claim : Bool) (holder : Option MoverNo)
  | chainLow (m : MoverNo) (chain : Nat)
  | chainEnd (m : MoverNo) (tag : Nat)
  | logReady (log : Nat)
  | skewWarn (m : MoverNo) (skewMm : Int)
  | windHold (cause : WindCause) (figure : Option WindFigure)
  | windClear (figure : Option WindFigure)
  | rain (sources : List StationNo)
  | dry
  | noSource
  | stationLost (st : StationNo) (line : LineId) (addr : Nat) (owner : Option MoverNo)
  | stationBack (st : StationNo) (line : LineId) (addr : Nat)
  | overrun (line : LineId) (round : BitVec 8)
  | service (id : BitVec 8) (st : StationNo) (res : ServiceResult) (val : Option Int)
deriving DecidableEq, Repr

/-- A raised notice with its T (R178). -/
structure Notice where
  kind : NoticeKind
  time : Time
deriving DecidableEq, Repr

/-- One class of the Notice Unit (R178). -/
structure ClassQueue where
  enabled : Bool := true
  queue : List Notice := []
  overflow : Bool := false
deriving DecidableEq, Repr

/-- The Notice Unit (R178, R185). -/
structure NoticeUnit where
  safety : ClassQueue := {}
  motion : ClassQueue := {}
  weather : ClassQueue := {}
  line : ClassQueue := {}
  logThreshold : Nat := Config.logThresholdAtPowerUp
deriving DecidableEq, Repr

/-! ## Supervisory Link Port (09) -/

/-- The receiver (R162): between lines, with whether the present run of stray characters was counted (at power-up DEDUCED, log entry 6);
or within a line, with its characters so far, whether it is marked damaged, and whether its last character was a CR. -/
inductive Receiver
  | between (strayCounted : Bool)
  | within (text : Text) (damaged : Bool) (cr : Bool)
deriving DecidableEq, Repr

/-- A well-formed line in the input buffer (R164). -/
structure BufferedLine where
  verb : Text
  ln : CommandLine
deriving DecidableEq, Repr

/-- The reason codes (R167). -/
inductive Reason
  | unknown
  | format
  | range
  | busy
  | undefined
  | conflict
  | poolEmpty
  | chainFull
  | chainEmpty
  | linkLost
  | stopOpen
  | feedback
  | causePresent
  | budgetInUse
  | queueFull
  | full
deriving DecidableEq, Repr

/-- A field of a reply: its name and its value as written. -/
structure OutField where
  key : String
  value : Text
deriving DecidableEq, Repr

/-- The three forms of a reply (R166). -/
inductive ReplyForm
  | ok
  | clamped (fields : List ClampField)
  | refused (reason : Reason)
deriving DecidableEq, Repr

/-- A reply in the reply queue (R166, R169). `full` tells the FULL replies of R164 from the replies of executions. -/
structure Reply where
  tag : Text
  form : ReplyForm
  fields : List OutField
  full : Bool
deriving DecidableEq, Repr

/-- The line on TXD (R170): its text as it leaves the part, whether it carries Z, and how long it still takes, in thousandths of a bit time. -/
structure TxLine where
  text : Text
  carriesZ : Bool
  left : Nat
deriving DecidableEq, Repr

/-- Link supervision (R171..R174). UP and LOW keep their values when supervision is turned off. -/
structure Supervision where
  on : Bool := false
  up : Option Nat := none
  low : Option Nat := none
  timer : Option Nat := none
  lost : Option LinkCause := none
deriving DecidableEq, Repr

/-- The Supervisory Link Port (R176). -/
structure LinkPort where
  receiver : Receiver := .between true
  inputBuffer : List BufferedLine := []
  replies : List Reply := []
  tx : Option TxLine := none
  errors : Nat := 0
  sup : Supervision := {}
  firstLine : Bool := true
deriving DecidableEq, Repr

/-- The levels of the hardwired inputs, and the link rate latched at the release of RESET (R20, R161). -/
structure Pins where
  resetLow : Bool := false
  stopOpen : Bool := false
  /-- True at 115,200 baud, false at 57,600. -/
  fastLink : Bool := false
deriving DecidableEq, Repr

/-! ## The part -/

/-- Everything the part holds. `posted` and `pending` are the model's own: the events the blocks have posted to one another, and
the commands that wait (DESIGN CHOICE, log entry 1). -/
structure State where
  timebase : Time := 0
  pins : Pins := {}
  movers : Vector Mover 8 := Vector.replicate 8 {}
  pool : Pool := {}
  power : Arbiter := {}
  rules : Vector (Option Rule) 16 := Vector.replicate 16 none
  wx : Weather := {}
  lineA : LineCtl := {}
  lineB : LineCtl := {}
  stations : Vector (Option Station) 24 := Vector.replicate 24 none
  serviceId : BitVec 8 := 0
  link : LinkPort := {}
  notices : NoticeUnit := {}
  posted : List Instr := []
  pending : List Instr := []
deriving DecidableEq, Repr

/-- The part right after a power-up with RESET high, STOPIN closed and BAUDSEL low (R30, R56, R108, R125, R141, R160, R176, R185;
DESIGN CHOICE, log entry 3). -/
def State.reset : State := {}

/-- Why a step could stop. No rule of the manual stops the part: a damaged line, an invalid frame and a refused command all have
effects it states, so no meaning raises this; it is here so that the type has a name to compare. Safe: nothing reaches it. -/
inductive Fault
  /-- Raised by no meaning; safe. -/
  | unreachable
deriving DecidableEq, Repr

/-- Why a command could have no meaning. -/
inductive Refusal
  /-- Raised by `exec` alone, for a row that has no meaning yet; safe (no claim can be proved about that row). -/
  | notModelled (mnemonic : String)
deriving DecidableEq, Repr

end Sys2Proof.Machine
end

