-- ==== Sys2Proof/Machine/Ops.lean ====
section
/-! DEFINITION. The named operations every meaning is written over: reading and writing the tables of the state, raising a
notice, posting an event, the timers, and the order images of a mover's stations. -/

namespace Sys2Proof.Machine

/-! ## Reading and writing the tables -/

/-- The eight movers in number order. -/
def allMovers : List MoverNo := List.finRange 8

/-- The twenty-four station numbers in order. -/
def allStations : List StationNo := List.finRange 24

/-- The sixteen rule numbers in order. -/
def allRules : List RuleNo := List.finRange 16

/-- Mover n. -/
def State.mv (s : State) (m : MoverNo) : Mover := s.movers[m.val]

/-- Mover n replaced. -/
def State.setMv (s : State) (m : MoverNo) (x : Mover) : State := { s with movers := s.movers.set m.val x }

/-- Mover n changed by f. -/
def State.modMv (s : State) (m : MoverNo) (f : Mover → Mover) : State := s.setMv m (f (s.mv m))

/-- The station record Sn, absent while UNUSED. -/
def State.stn (s : State) (st : StationNo) : Option Station := s.stations[st.val]

/-- The station record Sn replaced. -/
def State.setStn (s : State) (st : StationNo) (x : Option Station) : State :=
  { s with stations := s.stations.set st.val x }

/-- The station record Sn changed by f, if it is defined. -/
def State.modStn (s : State) (st : StationNo) (f : Station → Station) : State := s.setStn st ((s.stn st).map f)

/-- The rule record Cn, absent while undefined. -/
def State.rule (s : State) (c : RuleNo) : Option Rule := s.rules[c.val]

/-- The rule record Cn replaced. -/
def State.setRule (s : State) (c : RuleNo) (x : Option Rule) : State := { s with rules := s.rules.set c.val x }

/-- The rule record Cn changed by f, if it is defined. -/
def State.modRule (s : State) (c : RuleNo) (f : Rule → Rule) : State := s.setRule c ((s.rule c).map f)

/-- A track line controller. -/
def State.line (s : State) : LineId → LineCtl
  | .A => s.lineA
  | .B => s.lineB

/-- A track line controller changed by f. -/
def State.modLine (s : State) (l : LineId) (f : LineCtl → LineCtl) : State :=
  match l with
  | .A => { s with lineA := f s.lineA }
  | .B => { s with lineB := f s.lineB }

/-- The trigger settings of mover n (R126). -/
def State.trig (s : State) (m : MoverNo) : Trigger := s.wx.triggers[m.val]

/-- The trigger settings of mover n changed by f. -/
def State.modTrig (s : State) (m : MoverNo) (f : Trigger → Trigger) : State :=
  { s with wx := { s.wx with triggers := s.wx.triggers.set m.val (f (s.trig m)) } }

/-- The grant of mover n, in kW (R93). -/
def State.grant (s : State) (m : MoverNo) : Nat := s.power.grants[m.val]

/-- The grant of mover n replaced. -/
def State.setGrant (s : State) (m : MoverNo) (g : Nat) : State :=
  { s with power := { s.power with grants := s.power.grants.set m.val g } }

/-! ## Movers -/

/-- The mover record in force. An UNCONFIGURED mover has none, and no rule reads one there; the empty record stands in. -/
def Mover.cfg (mv : Mover) : MoverRec := mv.record.getD {}

/-- The mover is configured (R30). -/
def Mover.configured (mv : Mover) : Bool := mv.state != .unconfigured

/-- The fault stop is complete (R27). -/
def Mover.faultStopComplete (mv : Mover) : Bool :=
  match mv.fault with
  | some f => f.stopComplete
  | none => false

/-- At rest: in IDLE, UNCONFIGURED or STOPPED, or in FAULT with the fault stop complete (00_scope, Terms). -/
def Mover.atRest (mv : Mover) : Bool :=
  match mv.state with
  | .unconfigured | .idle | .stopped => true
  | .fault => mv.faultStopComplete
  | _ => false

/-- AWAIT_POWER, UNLOCKING, RELEASING, RUNNING, HOLDING or HELD: the states in which a hold reason is recorded (R13). -/
def MoverState.recordsHold : MoverState → Bool
  | .awaitPower | .unlocking | .releasing | .running | .holding | .held => true
  | _ => false

/-- AWAIT_POWER to HELD, or ENDING: the seven states an emergency stop acts in (R20). -/
def MoverState.estopActs : MoverState → Bool
  | .ending => true
  | st => st.recordsHold

/-- UNLOCKING, RELEASING, RUNNING or HOLDING: the states in which a grant is held (R96). -/
def MoverState.holdsGrant : MoverState → Bool
  | .unlocking | .releasing | .running | .holding => true
  | _ => false

/-- The mover is configured and of class EXPOSED. -/
def Mover.isExposed (mv : Mover) : Bool := mv.configured && mv.cfg.cls == .exposed

/-- No reason stands in the set (R13). -/
def HoldSet.isEmpty (h : HoldSet) : Bool := !h.operator && !h.link && !h.wind && h.clearance.isEmpty

/-- The sign of a direction: +1 outward, −1 inward (R57). -/
def Dir.sign : Dir → Int
  | .outward => 1
  | .inward => -1

/-- dir × v, taken as 0 while dir is absent (R57, R87). -/
def Mover.signedV (mv : Mover) : Int :=
  match mv.dir with
  | some d => d.sign * mv.v
  | none => 0

/-- The inward end of travel in µm. -/
def MoverRec.loUm (r : MoverRec) : Int := r.lo * 1000

/-- The outward end of travel in µm. -/
def MoverRec.hiUm (r : MoverRec) : Int := r.hi * 1000

/-- A position clamped into [LO×1000, HI×1000] (R8, R60). -/
def MoverRec.clampTravel (r : MoverRec) (x : Int) : Int := max r.loUm (min x r.hiUm)

/-! ## Notices (R178) -/

/-- The class a kind belongs to (R179). -/
def NoticeKind.cls : NoticeKind → NoticeClass
  | .stopOpen | .stopClosed | .fault .. | .linkLost .. => .safety
  | .triggered .. | .triggerFailed .. | .held .. | .powerWait .. | .clearanceWait .. | .chainLow .. | .chainEnd ..
  | .logReady .. | .skewWarn .. => .motion
  | .windHold .. | .windClear .. | .rain .. | .dry | .noSource => .weather
  | .stationLost .. | .stationBack .. | .overrun .. | .service .. => .line

/-- The queue of a class. -/
def NoticeUnit.get (n : NoticeUnit) : NoticeClass → ClassQueue
  | .safety => n.safety
  | .motion => n.motion
  | .weather => n.weather
  | .line => n.line

/-- The queue of a class replaced. -/
def NoticeUnit.put (n : NoticeUnit) (c : NoticeClass) (q : ClassQueue) : NoticeUnit :=
  match c with
  | .safety => { n with safety := q }
  | .motion => { n with motion := q }
  | .weather => { n with weather := q }
  | .line => { n with line := q }

/-- What becomes of a notice raised in a class: discarded while disabled, queued, or discarded with the overflow mark set (R178). -/
def ClassQueue.accept (q : ClassQueue) (x : Notice) : ClassQueue :=
  if !q.enabled then q
  else if q.queue.length < Config.noticeQueueSize then { q with queue := q.queue ++ [x] }
  else { q with overflow := true }

/-- A notice is raised at this event, with T the timebase value (R178). -/
def State.raise (s : State) (k : NoticeKind) : State :=
  { s with notices := s.notices.put k.cls ((s.notices.get k.cls).accept ⟨k, s.timebase⟩) }

/-! ## Posted events (DESIGN CHOICE, log entry 1) -/

/-- An event is posted behind those already posted. -/
def State.post (s : State) (i : Instr) : State := { s with posted := s.posted ++ [i] }

/-- An event is posted unless it already stands posted. -/
def State.postOnce (s : State) (i : Instr) : State := if s.posted.contains i then s else s.post i

/-- A posted event is taken, or is called off: its oldest posting leaves the list. -/
def State.unpost (s : State) (i : Instr) : State := { s with posted := s.posted.erase i }

/-! ## Mover timers (R25): a timer that is started afresh or cancelled does not expire from before -/

/-- TLOCK starts. -/
def State.startTlock (s : State) (m : MoverNo) : State :=
  (s.unpost (.tlockExpiry m)).modMv m fun x => { x with tlock := some x.cfg.tlock }

/-- TLOCK is cancelled. -/
def State.cancelTlock (s : State) (m : MoverNo) : State :=
  (s.unpost (.tlockExpiry m)).modMv m fun x => { x with tlock := none }

/-- TBRK starts. -/
def State.startTbrk (s : State) (m : MoverNo) : State :=
  (s.unpost (.tbrkExpiry m)).modMv m fun x => { x with tbrk := some x.cfg.tbrk }

/-- TBRK is cancelled. -/
def State.cancelTbrk (s : State) (m : MoverNo) : State :=
  (s.unpost (.tbrkExpiry m)).modMv m fun x => { x with tbrk := none }

/-- TSTOP starts. -/
def State.startTstop (s : State) (m : MoverNo) : State :=
  (s.unpost (.tstopExpiry m)).modMv m fun x => { x with tstop := some x.cfg.tstop }

/-- TSTOP is cancelled. -/
def State.cancelTstop (s : State) (m : MoverNo) : State :=
  (s.unpost (.tstopExpiry m)).modMv m fun x => { x with tstop := none }

/-- The alignment timer is cancelled (R91). -/
def State.cancelAlign (s : State) (m : MoverNo) : State :=
  (s.unpost (.alignTimerExpiry m)).modMv m fun x => { x with alignLeft := none }

/-- The dwell and alignment timers stop counting when the mover leaves RUNNING: an expiry not yet taken is called off (R25, R76, R91). -/
def State.pauseSegmentTimers (s : State) (m : MoverNo) : State :=
  (s.unpost (.dwellExpiry m)).unpost (.alignTimerExpiry m)

/-! ## What the stations last reported -/

/-- The station's last exchange gave a valid report (R145): it reported in the current round (R6; DEDUCED, log entry 12). -/
def State.isOnline (s : State) (st : StationNo) : Bool :=
  match s.stn st with
  | some x => x.health == .online
  | none => false

/-- The station is LOST (R145). -/
def State.isLost (s : State) (st : StationNo) : Bool :=
  match s.stn st with
  | some x => x.health == .lost
  | none => false

/-- The last valid report of a station. -/
def State.lastReport (s : State) (st : StationNo) : Option Report :=
  ((s.stn st).bind Station.report).map StoredReport.report

/-- POS, STATE and BRAKE of a DRIVE station's last valid report. -/
def State.driveReport (s : State) (st : StationNo) : Option (Int × DriveState × BrakeReport) :=
  match s.lastReport st with
  | some (.drive pos d b) => some (pos, d, b)
  | _ => none

/-- The lock station's last valid report, for a mover that has a lock station (R6). -/
def State.lockReport (s : State) (m : MoverNo) : Option LockReport :=
  match (s.mv m).cfg.lockst with
  | none => none
  | some st =>
    match s.lastReport st with
    | some (.lock r) => some r
    | _ => none

/-- Every track of the mover reported, in the current round, a STATE and BRAKE that pass the test (R6 stage 4). -/
def State.tracksReport (s : State) (m : MoverNo) (test : DriveState → BrakeReport → Bool) : Bool :=
  (s.mv m).cfg.tracks.all fun st =>
    s.isOnline st &&
      match s.driveReport st with
      | some (_, d, b) => test d b
      | none => false

/-- Every track reported BRAKE APPLIED in the current round. -/
def State.brakesApplied (s : State) (m : MoverNo) : Bool := s.tracksReport m fun _ b => b == .applied

/-- Every track reported BRAKE RELEASED in the current round. -/
def State.brakesReleased (s : State) (m : MoverNo) : Bool := s.tracksReport m fun _ b => b == .released

/-- A track station of the mover is LOST (R9, R24). -/
def State.trackLost (s : State) (m : MoverNo) : Bool := (s.mv m).cfg.tracks.any s.isLost

/-! ## Order images (R7, R153) -/

/-- The image of a station of no mover, by TYPE (R153). -/
def StationType.freeImage : StationType → Image
  | .drive => .drive 0 .apply .normal
  | .lock => .lock .keep
  | .weather => .weather

/-- BRAKE of a DRIVE image as it was last written. -/
def Image.brakeOrder : Image → BrakeOrder
  | .drive _ b _ => b
  | _ => .apply

/-- The correction of track i, counted from 0, as stored from the last update (R86). -/
def Mover.correction (mv : Mover) (i : Nat) : Int :=
  match mv.trim with
  | some t => t.corrections.getD i 0
  | none => 0

/-- The track setpoint VEL_i = dir × v + c_i (R87). -/
def Mover.setpoint (mv : Mover) (i : Nat) : Int := mv.signedV + mv.correction i

/-- The DRIVE image of track i in the state the mover has reached (R7); `old` gives the brake as last written. -/
def Mover.driveImage (mv : Mover) (i : Nat) (old : Image) : Image :=
  match mv.state with
  | .unconfigured | .idle | .awaitPower | .held | .stopped | .unlocking | .ending => .drive 0 .apply .normal
  | .releasing => .drive 0 .release .normal
  | .running => .drive (mv.setpoint i) .release .normal
  | .holding => if mv.brakeOrdered then .drive 0 .apply .normal else .drive (mv.setpoint i) .release .normal
  | .stopping => .drive 0 (if mv.brakeOrdered then .apply else old.brakeOrder) .quick
  | .fault =>
    if mv.faultStopComplete then .drive 0 .apply .normal
    else .drive 0 (if mv.brakeOrdered then .apply else old.brakeOrder) .quick

/-- The LOCK image in the state the mover has reached (R7). -/
def Mover.lockImage (mv : Mover) : Image :=
  match mv.state with
  | .unlocking | .releasing | .running | .holding => .lock .withdraw
  | .ending => .lock (if mv.endLock then .engage else .keep)
  | _ => .lock .keep

/-- The mover writes the images of its tracks and of its lock (R7). -/
def State.writeImages (s : State) (m : MoverNo) : State :=
  let x := s.mv m
  let s := x.cfg.tracks.zipIdx.foldl
    (fun s (t : StationNo × Nat) => s.modStn t.1 fun y => { y with image := x.driveImage t.2 y.image }) s
  match x.cfg.lockst with
  | some st => s.modStn st fun y => { y with image := x.lockImage }
  | none => s

/-- The mover reaches a state, changed as f says, and writes its images (R7). -/
def State.enter (s : State) (m : MoverNo) (st : MoverState) (f : Mover → Mover) : State :=
  (s.modMv m fun x => { f x with state := st }).writeImages m

end Sys2Proof.Machine
end

