-- ==== Sys2Proof/Machine/Lines.lean ====
section
/-! DEFINITION. The track line controllers (08) and the frames of the track lines (09, R177). -/

namespace Sys2Proof.Machine

/-! ## Frames (R177) -/

/-- One bit of the CRC register: shift left, and the polynomial x^16+x^12+x^5+1 where a one falls out. -/
def crcShift (r : BitVec 16) : BitVec 16 := if r.msb then (r <<< 1) ^^^ 0x1021#16 else r <<< 1

/-- One octet into the CRC register, most significant bit first. -/
def crcOctet (r : BitVec 16) (o : Octet) : BitVec 16 :=
  let r := r ^^^ (o.setWidth 16 <<< 8)
  crcShift (crcShift (crcShift (crcShift (crcShift (crcShift (crcShift (crcShift r)))))))

/-- The CRC-16 of a run of octets: the register starts at all ones, and there is no final inversion (R177). -/
def crc16 (os : List Octet) : BitVec 16 := os.foldl crcOctet 0xFFFF#16

/-- The two octets of a 16-bit field, low octet first. -/
def octets16 (x : BitVec 16) : List Octet := [x.extractLsb' 0 8, x.extractLsb' 8 8]

/-- The four octets of a 32-bit field, low octet first. -/
def octets32 (x : BitVec 32) : List Octet :=
  [x.extractLsb' 0 8, x.extractLsb' 8 8, x.extractLsb' 16 8, x.extractLsb' 24 8]

/-- A 16-bit field from its octets, low octet first. -/
def word16 (a b : Octet) : BitVec 16 := b ++ a

/-- A 32-bit field from its octets, low octet first. -/
def word32 (a b c d : Octet) : BitVec 32 := d ++ c ++ b ++ a

/-- A frame: ADDR, KIND, ROUND, payload, and the CRC low octet first (R177). -/
def makeFrame (addr : Nat) (kind : Octet) (round : BitVec 8) (payload : List Octet) : List Octet :=
  let body := BitVec.ofNat 8 addr :: kind :: round :: payload
  body ++ octets16 (crc16 body)

/-- KIND codes (R177). -/
def kindOrder : Octet := 1
/-- KIND REPORT. -/
def kindReport : Octet := 2
/-- KIND SVC_REQ. -/
def kindSvcReq : Octet := 3
/-- KIND SVC_REPLY. -/
def kindSvcReply : Octet := 4

/-- The code of BRAKE in an order. -/
def BrakeOrder.code : BrakeOrder → Octet
  | .apply => 0
  | .release => 1

/-- The code of MODE. -/
def DriveMode.code : DriveMode → Octet
  | .normal => 0
  | .quick => 1

/-- The code of CMD. -/
def LockCmd.code : LockCmd → Octet
  | .keep => 0
  | .engage => 1
  | .withdraw => 2

/-- The payload of an ORDER frame (R153, R177). -/
def Image.payload : Image → List Octet
  | .drive vel b m => octets32 (BitVec.ofInt 32 vel) ++ [b.code, m.code]
  | .lock c => [c.code]
  | .weather => []

/-- The payload of an SVC_REQ frame; VAL is 0 for a READ (R158, R177). -/
def ServiceRequest.payload (r : ServiceRequest) : List Octet :=
  (if r.write then 1 else 0) :: octets16 (BitVec.ofNat 16 r.par) ++ octets32 (BitVec.ofInt 32 (r.val.getD 0))

/-- STATE of a DRIVE report from its code. -/
def decodeDriveState (o : Octet) : Option DriveState :=
  match o.toNat with
  | 0 => some .ready
  | 1 => some .running
  | 2 => some .stopping
  | 3 => some .tripped
  | 4 => some .disabled
  | _ => none

/-- BRAKE of a DRIVE report from its code. -/
def decodeBrakeReport (o : Octet) : Option BrakeReport :=
  match o.toNat with
  | 0 => some .applied
  | 1 => some .released
  | 2 => some .travelling
  | _ => none

/-- STATE of a LOCK report from its code. -/
def decodeLockReport (o : Octet) : Option LockReport :=
  match o.toNat with
  | 0 => some .engaged
  | 1 => some .withdrawn
  | 2 => some .moving
  | 3 => some .jammed
  | _ => none

/-- A code that stands for no or yes: RAIN (DRY, WET), STATUS (OK, REFUSED). -/
def decodeFlag (o : Octet) : Option Bool :=
  match o.toNat with
  | 0 => some false
  | 1 => some true
  | _ => none

/-- A report payload of a station TYPE; none where its length or a field is not as R150 and R177 require. -/
def decodeReport : StationType → List Octet → Option Report
  | .drive, [a, b, c, d, st, br] =>
    match decodeDriveState st, decodeBrakeReport br with
    | some st, some br => some (.drive (word32 a b c d).toInt st br)
    | _, _ => none
  | .lock, [st] => (decodeLockReport st).map Report.lock
  | .weather, [a, b, c, d, r] =>
    let mean := (word16 a b).toNat
    let gust := (word16 c d).toNat
    match decodeFlag r with
    | some wet => if mean ≤ 999 ∧ gust ≤ 999 then some (.weather mean gust wet) else none
    | none => none
  | _, _ => none

/-- The payload of a received frame of a KIND, from an address, in a round: the CRC is checked over the same octets, and no octet
had a bad stop bit (R150, R158, R177). -/
def framePayload (f : Frame) (addr : Nat) (kind : Octet) (round : BitVec 8) : Option (List Octet) :=
  let body := f.octets.take (f.octets.length - 2)
  if f.badStop || f.octets.length < 5 || f.octets.drop (f.octets.length - 2) != octets16 (crc16 body) then none
  else
    match body with
    | a :: k :: r :: rest =>
      if a == BitVec.ofNat 8 addr && k == kind && r == round then some rest else none
    | _ => none

/-- STATUS (refused or not) and VAL of a service reply payload; none where it is not as R158 requires. -/
def decodeSvcReply : List Octet → Option (Bool × Int)
  | [st, a, b, c, d] => (decodeFlag st).map fun refused => (refused, (word32 a b c d).toInt)
  | _ => none

/-! ## Rounds and exchanges (R148 to R158) -/

/-- The first station of line l whose number is at least n (R148). -/
def State.nextStation (s : State) (l : LineId) (n : Nat) : Option StationNo :=
  allStations.find? fun st =>
    decide (n ≤ st.val) &&
      match s.stn st with
      | some x => x.line == l
      | none => false

/-- An exchange with a station begins: its ORDER frame is sent with the image as it stands, and the response timeout starts (R149). -/
def State.beginExchange (s : State) (l : LineId) (st : StationNo) : State :=
  match s.stn st with
  | none => s
  | some x =>
    s.modLine l fun c =>
      { c with
        phase := .exchange st
        response := some c.current.tmo
        sent := makeFrame x.addr kindOrder c.round x.image.payload }

/-- A service exchange begins with the head request (R157, R158). -/
def State.beginService (s : State) (l : LineId) (r : ServiceRequest) : State :=
  let addr := match s.stn r.station with
    | some x => x.addr
    | none => 0
  s.modLine l fun c =>
    { c with
      queue := c.queue.tail
      phase := .serviceExchange r
      response := some c.current.tmo
      sent := makeFrame addr kindSvcReq c.round r.payload }

/-- A round that ends before its period timer expires: the overrun flag is cleared and the line idles (R155). -/
def State.endRoundInTime (s : State) (l : LineId) : State :=
  s.modLine l fun c => { c with phase := .betweenRounds, overrun := false }

/-- The service decision of a round, with what the end of the round does (R157). -/
def State.serviceDecisionWith (endRound : State → LineId → State) (s : State) (l : LineId) : State :=
  let c := s.line l
  match c.queue with
  | [] => endRound s l
  | r :: _ => if c.current.tmo ≤ c.period.getD 0 then s.beginService l r else endRound s l

/-- The next exchange of the round from station number n on, or the service decision after the last (R148). -/
def State.continueRoundWith (endRound : State → LineId → State) (s : State) (l : LineId) (n : Nat) : State :=
  match s.nextStation l n with
  | some st => s.beginExchange l st
  | none => s.serviceDecisionWith endRound l

/-- A station becomes LOST: LINE STATION_LOST, and a source loss where it carries the source mark (R144, R152). -/
def State.loseStation (s : State) (st : StationNo) (misses : Nat) : State :=
  match s.stn st with
  | none => s
  | some x =>
    let s := s.setStn st (some { x with health := .lost, misses := misses })
    let s := s.raise (.stationLost st x.line x.addr x.owner)
    if x.source then s.post (.sourceLoss st) else s

/-- The new MISS of a line takes effect at one station (R144). -/
def State.applyMiss (l : LineId) (miss : Nat) (s : State) (st : StationNo) : State :=
  match s.stn st with
  | none => s
  | some x =>
    if x.line != l then s
    else
      match x.health with
      | .lost => s.setStn st (some { x with misses := miss })
      | .stale => if miss ≤ x.misses then s.loseStation st miss else s
      | .online => s

/-- The line's record comes into force, MISS at every station of the line, in station number order (R144; DESIGN CHOICE, log entry 42).
The source losses it posts are taken after it, when every station it makes LOST is LOST (DESIGN CHOICE, log entry 52). -/
def State.applySettings (s : State) (l : LineId) : State :=
  match (s.line l).record with
  | none => s
  | some r =>
    if (s.line l).current.miss = r.miss then s.modLine l fun c => { c with current := r }
    else allStations.foldl (State.applyMiss l r.miss) (s.modLine l fun c => { c with current := r })

/-- A round begins: settings in force, round number, period timer, first exchange (R148). Its period timer has just started, so
where it ends at once it ends in time. -/
def State.beginRound (s : State) (l : LineId) : State :=
  let s := (s.applySettings l).unpost (.linePeriodExpiry l)
  let s := s.modLine l fun c => { c with round := c.round + 1, period := some c.current.per, overdue := false }
  s.continueRoundWith State.endRoundInTime l 0

/-- A round ends (R155), or an overrunning one: LINE OVERRUN unless the flag stood set, and the next round at once (R156). OVERRUN is
raised before the STATION_LOST notices of a MISS that the next round brings into force (DESIGN CHOICE, log entry 53). -/
def State.endRound (s : State) (l : LineId) : State :=
  let c := s.line l
  if !c.overdue then s.endRoundInTime l
  else
    let s := if c.overrun then s else (s.modLine l fun c => { c with overrun := true }).raise (.overrun l c.round)
    s.beginRound l

/-- The exchange with station st has ended: the line goes on to the next at once (R148, R151). -/
def State.continueRound (s : State) (l : LineId) (st : StationNo) : State :=
  let s := (s.unpost (.responseTimeout l)).modLine l fun c => { c with response := none }
  s.continueRoundWith State.endRound l (st.val + 1)

/-- The service exchange has ended, and with it the round (R155, R158). -/
def State.endServiceExchange (s : State) (l : LineId) : State :=
  let s := (s.unpost (.serviceTimeout l)).modLine l fun c => { c with response := none, phase := .betweenRounds }
  s.endRound l

/-- A track of a configured mover has a result for the round: its mark is set, and when all are set the track-set-complete event
is due (R5). -/
def State.markTrack (s : State) (st : StationNo) : State :=
  match (s.stn st).bind Station.owner with
  | none => s
  | some m =>
    let x := s.mv m
    if x.configured && x.cfg.tracks.contains st then
      let marks := x.cfg.tracks.zipIdx.map fun t => t.1 == st || x.marks.getD t.2 false
      let s := s.modMv m fun x => { x with marks := marks }
      if marks.all id then s.postOnce (.trackSetComplete m) else s
    else s

/-- A valid report ends the exchange (R151). -/
def State.validReport (s : State) (st : StationNo) (r : Report) : State :=
  match s.stn st with
  | none => s
  | some x =>
    let s := s.setStn st
      (some { x with report := some ⟨r, s.timebase⟩, misses := 0, health := .online })
    let s := if x.health == .lost then s.raise (.stationBack st x.line x.addr) else s
    let s := s.markTrack st
    if x.source then s.post (.reportArrival st) else s

/-- A miss ends the exchange (R152). -/
def State.missedReport (s : State) (l : LineId) (st : StationNo) : State :=
  match s.stn st with
  | none => s
  | some x =>
    let limit := (s.line l).current.miss
    let n := min (x.misses + 1) limit
    let s :=
      if x.health == .lost then s.setStn st (some { x with misses := n })
      else if n < limit then s.setStn st (some { x with misses := n, health := .stale })
      else s.loseStation st n
    s.markTrack st

/-- A frame is received while an exchange with station st waits: a valid report, or a miss (R149, R150). The next exchange begins within
this event, before the mover update that the frame may make due: R151 leaves either order open (DESIGN CHOICE, log entry 48). -/
def State.stationFrame (s : State) (l : LineId) (st : StationNo) (f : Frame) : State :=
  let s := match s.stn st with
    | none => s
    | some x =>
      match (framePayload f x.addr kindReport (s.line l).round).bind (decodeReport x.type) with
      | some r => s.validReport st r
      | none => s.missedReport l st
  s.continueRound l st

/-- The end of a service exchange with its outcome: LINE SERVICE, and the round's end (R158). -/
def State.finishService (s : State) (l : LineId) (r : ServiceRequest) (res : ServiceResult) (v : Option Int) : State :=
  (s.raise (.service r.id r.station res v)).endServiceExchange l

/-- A frame is received while the service exchange waits (R158). -/
def State.serviceFrame (s : State) (l : LineId) (r : ServiceRequest) (f : Frame) : State :=
  let addr := match s.stn r.station with
    | some x => x.addr
    | none => 0
  match (framePayload f addr kindSvcReply (s.line l).round).bind decodeSvcReply with
  | some (false, v) => s.finishService l r .ok (some v)
  | some (true, v) => s.finishService l r .refused (some v)
  | none => s.finishService l r .noReply none

/-- LINE SERVICE with RES=NOREPLY for a discarded request (R158). -/
def State.discardNotice (s : State) (r : ServiceRequest) : State := s.raise (.service r.id r.station .noReply none)

/-- Requests that pass the test are discarded: the service in flight first, then those of the queue in order (R144, R147, R158). An
exchange abandoned so leaves the line between rounds, with its round still to be ended. -/
def State.discardRequests (s : State) (l : LineId) (test : ServiceRequest → Bool) : State :=
  let c := s.line l
  let s := match c.phase with
    | .serviceExchange r =>
      if test r then
        ((s.discardNotice r).unpost (.serviceTimeout l)).modLine l fun c =>
          { c with phase := .betweenRounds, response := none }
      else s
    | _ => s
  let s := (c.queue.filter test).foldl State.discardNotice s
  s.modLine l fun c => { c with queue := c.queue.filter fun r => !test r }

/-- A service exchange of the line is under way for a request that passes the test. -/
def LineCtl.servicing (c : LineCtl) (test : ServiceRequest → Bool) : Bool :=
  match c.phase with
  | .serviceExchange r => test r
  | _ => false

/-- The line's period timer expires (R148, R156): a round begins, or the round under way will overrun. -/
def State.periodExpiry (s : State) (l : LineId) : State :=
  let c := s.line l
  if !c.polling || c.period.isNone then s
  else if c.phase == .betweenRounds then s.beginRound l
  else s.modLine l fun c => { c with period := none, overdue := true }

end Sys2Proof.Machine
end

