-- ==== Sys2Proof/Machine/Flags.lean ====
section
/-! DEFINITION. The summary flags that every reply and notice line carries (09, R168). -/

namespace Sys2Proof.Machine

/-- F: a mover is in FAULT. -/
def State.flagF (s : State) : Bool := allMovers.any fun m => (s.mv m).state == .fault

/-- M: a mover is in UNLOCKING, RELEASING, RUNNING or HOLDING. -/
def State.flagM (s : State) : Bool := allMovers.any fun m => (s.mv m).state.holdsGrant

/-- W: the wind hold is not CLEAR. -/
def State.flagW (s : State) : Bool := s.wx.hold != .clear

/-- E: STOPIN is open. -/
def State.flagE (s : State) : Bool := s.pins.stopOpen

/-- L: the link-lost flag is set. -/
def State.flagL (s : State) : Bool := s.link.sup.lost.isSome

/-- N: a notice waits in a class queue. -/
def State.flagN (s : State) : Bool :=
  !(s.notices.safety.queue.isEmpty && s.notices.motion.queue.isEmpty && s.notices.weather.queue.isEmpty &&
    s.notices.line.queue.isEmpty)

/-- G: the log count is at or above the log threshold. -/
def State.flagG (s : State) : Bool := decide (s.notices.logThreshold ≤ s.pool.log.length)

/-- Z: the first-line flag is set. -/
def State.flagZ (s : State) : Bool := s.link.firstLine

/-- The letters of the flags present, in the order F M W E L N G Z (R168). -/
def State.flagLetters (s : State) : Text :=
  (if s.flagF then ['F'] else []) ++ (if s.flagM then ['M'] else []) ++ (if s.flagW then ['W'] else []) ++
    (if s.flagE then ['E'] else []) ++ (if s.flagL then ['L'] else []) ++ (if s.flagN then ['N'] else []) ++
    (if s.flagG then ['G'] else []) ++ (if s.flagZ then ['Z'] else [])

/-- S= with the letters, or S=- where no flag is present (R168). -/
def State.flagField (s : State) : Text :=
  "S=".toList ++ (if s.flagLetters.isEmpty then ['-'] else s.flagLetters)

end Sys2Proof.Machine
end

