-- ==== Sys2Proof/Machine/Pool.lean ====
section
/-! DEFINITION. The Segment Pool (02): clamping, staging, taking and logging segments, and the log threshold. -/

namespace Sys2Proof.Machine

/-- A value above its limit is replaced by the limit, and its field noted (R40). An omitted value takes the limit as its default
and is not noted. -/
def clampAbove (limit : Nat) (f : ClampField) : Option Nat → Nat × List ClampField
  | none => (limit, [])
  | some x => if limit < x then (limit, [f]) else (x, [])

/-- TO is replaced by the nearer of LO and HI where it lies outside them (R40). -/
def clampTarget (r : MoverRec) (x : Int) : Int × List ClampField :=
  if x < r.lo then (r.lo, [.target]) else if (r.hi : Int) < x then (r.hi, [.target]) else (x, [])

/-- The clamped motion and its clamp notes, in the order TO, V, A, D, T (R40). -/
def MoverRec.clamp (r : MoverRec) : MotionKind → SegKind × List ClampField
  | .move target v a d =>
    let t := clampTarget r target
    let v := clampAbove r.vmax .v v
    let a := clampAbove r.amax .a a
    let d := clampAbove r.dmax .d d
    (.move t.1 v.1 a.1 d.1, t.2 ++ v.2 ++ a.2 ++ d.2)
  | .dwell t =>
    let t := clampAbove Config.dwellLimit .t (some t)
    (.dwell t.1, t.2)
  | .align => (.align, [])

/-- The segment that a motion makes in a slot, clamped against the record in force (R35, R40, R42). -/
def makeSegment (r : MoverRec) (m : MoverNo) (slot : SlotNo) (mo : Motion) (o : Origin) : Segment :=
  let c := r.clamp mo.kind
  { slot := slot, mover := m, tag := mo.tag, kind := c.1, lock := mo.lock, clamps := c.2, origin := o }

/-- The top free slot takes the motion and joins the tail of the chain (R40); with an empty free list nothing changes. -/
def State.placeSegment (s : State) (m : MoverNo) (mo : Motion) (o : Origin) : State :=
  match s.pool.free with
  | [] => s
  | slot :: rest =>
    { s with pool := { s.pool with free := rest } }.modMv m fun x =>
      { x with chain := x.chain ++ [makeSegment x.cfg m slot mo o] }

/-- The execution part at the take (R36). -/
def SegKind.initialPart : SegKind → ExecPart
  | .dwell t => { dwellLeft := t }
  | _ => {}

/-- The take: the chain head moves to the executing place, which is empty at every take (R33; DEDUCED, log entry 31), and MOTION CHAIN_LOW
is sent when the count reaches LOW (R41). -/
def State.take (s : State) (m : MoverNo) : State :=
  match (s.mv m).chain, (s.mv m).exec with
  | [], _ => s
  | _, some _ => s
  | seg :: rest, none =>
    let s := s.modMv m fun x => { x with chain := rest, exec := some ⟨seg, seg.kind.initialPart⟩ }
    if rest.length = (s.mv m).cfg.low then s.raise (.chainLow m rest.length) else s

/-- The threshold test of R53, made at each record. LOG= is the count at the record that reaches the threshold, also where one event logs
several (R46 read with R53 and R178; DEDUCED, log entry 36). -/
def State.thresholdTest (s : State) : State :=
  let n := s.pool.log.length
  if s.pool.logArm && decide (s.notices.logThreshold ≤ n) then
    { s with pool := { s.pool with logArm := false } }.raise (.logReady n)
  else if !s.pool.logArm && decide (n < s.notices.logThreshold) then
    { s with pool := { s.pool with logArm := true } }
  else s

/-- A record joins the tail of the completion log, and the threshold test is made at once (R46; DEDUCED, log entry 36). -/
def State.appendLog (s : State) (r : LogRecord) : State :=
  { s with pool := { s.pool with log := s.pool.log ++ [r] } }.thresholdTest

/-- The mean of the last update at which it was formed, in µm (R79, R80). -/
def Mover.mean (mv : Mover) : Option Int := mv.trim.map Trim.mean

/-- The execution part as its record carries it: of a segment that never entered RUNNING, a peak skew of 0 and DERATED no (R37, R47,
R92; DEDUCED, log entry 34). -/
def ExecPart.logged (q : ExecPart) : ExecPart :=
  if q.startTime.isSome then q else { q with peakSkew := 0, derated := false }

/-- The executing segment, if there is one, is logged, and its dwell and alignment timers are cancelled (R46, R25, R91). -/
def State.logExecuting (s : State) (m : MoverNo) (o : SegOutcome) (k : Option FaultKind) : State :=
  match (s.mv m).exec with
  | none => s
  | some e =>
    let s := ((s.unpost (.dwellExpiry m)).cancelAlign m).modMv m fun x => { x with exec := none }
    s.appendLog
      { seg := e.seg, part := some e.part.logged, outcome := o, endTime := s.timebase, endPos := (s.mv m).mean, faultKind := k }

/-- The head of the chain is logged FLUSHED (R46). -/
def State.flushHead (m : MoverNo) (s : State) (seg : Segment) : State :=
  (s.modMv m fun x => { x with chain := x.chain.tail }).appendLog
    { seg := seg, part := none, outcome := .flushed, endTime := s.timebase, endPos := none, faultKind := none }

/-- Every pending segment is logged FLUSHED, head first, and the chain is left empty (R48, R49). -/
def State.flushChain (s : State) (m : MoverNo) : State := (s.mv m).chain.foldl (State.flushHead m) s

/-- The slots of the read records join the top of the free list, oldest first, so the newest ends at the top (R51). -/
def freeSlots (free : List SlotNo) (rs : List LogRecord) : List SlotNo :=
  rs.foldl (fun f r => r.seg.slot :: f) free

end Sys2Proof.Machine
end

