-- ==== Sys2Proof/Machine/Clearance.lean ====
section
/-! DEFINITION. The Clearance Table (06): paths, needs, requests, waiting lists, stop points and the tests that free a rule. -/

namespace Sys2Proof.Machine

/-- A path: an interval of positions in µm, both ends included (R112). -/
structure Path where
  lo : Int
  hi : Int
deriving DecidableEq, Repr

/-- The path between two positions. -/
def Path.between (a b : Int) : Path := ⟨min a b, max a b⟩

/-- The path that is a single point. -/
def Path.point (a : Int) : Path := ⟨a, a⟩

/-- x lies in the zone (R109). -/
def Rule.inZone (r : Rule) (x : Int) : Bool := decide ((r.zlo : Int) * 1000 ≤ x) && decide (x ≤ (r.zhi : Int) * 1000)

/-- x lies in the region (R109). -/
def Rule.inRegion (r : Rule) (x : Int) : Bool := decide ((r.rlo : Int) * 1000 ≤ x) && decide (x ≤ (r.rhi : Int) * 1000)

/-- The path meets the zone (R112). -/
def Rule.met (r : Rule) (p : Path) : Bool := decide ((r.zlo : Int) * 1000 ≤ p.hi) && decide (p.lo ≤ (r.zhi : Int) * 1000)

/-- The path leaves the region (R112). -/
def Rule.left (r : Rule) (p : Path) : Bool := decide (p.lo < (r.rlo : Int) * 1000) || decide ((r.rhi : Int) * 1000 < p.hi)

/-- The path of mover m needs the rule: a claim as its G, a release as its K (R112). -/
def Rule.needs (r : Rule) (m : MoverNo) (p : Path) : Bool := (r.g == m && r.met p) || (r.k == m && r.left p)

/-- Mover m has the rule (R112). -/
def Rule.has (r : Rule) (m : MoverNo) : Bool := (r.g == m && r.state == .held) || (r.k == m && r.state == .released)

/-- The mover that has the rule (R109). -/
def Rule.holder (r : Rule) : Option MoverNo :=
  match r.state with
  | .free => none
  | .held => some r.g
  | .released => some r.k

/-- The target used: TO × 1000 clamped into the travel in force (R60). -/
def Mover.targetUsed (mv : Mover) (target : Int) : Int := mv.cfg.clampTravel (target * 1000)

/-- The point of an ALIGN that is not set up: the mean clamped into travel (R112). R112 gives none while the mover holds no mean, as
after a redefinition in FAULT and ACKFAULT before the next update; the point is then p (DESIGN CHOICE, log entry 58). -/
def Mover.alignPoint (mv : Mover) : Int :=
  match mv.mean with
  | some x => mv.cfg.clampTravel x
  | none => mv.p

/-- The path of the executing segment (R112). -/
def Mover.execPath (mv : Mover) : Option Path :=
  mv.exec.map fun e =>
    match e.seg.kind with
    | .move target _ _ _ => Path.between (e.part.pathStart.getD mv.p) (mv.targetUsed target)
    | .dwell _ => Path.point mv.p
    | .align => Path.point (if e.part.startTime.isSome then mv.p else mv.alignPoint)

/-- The look-ahead segment: the chain head while in RUNNING with an executing MOVE (R34). -/
def Mover.lookahead (mv : Mover) : Option Segment :=
  match mv.state, mv.exec with
  | .running, some e =>
    match e.seg.kind with
    | .move .. => mv.chain.head?
    | _ => none
  | _, _ => none

/-- The path of the look-ahead segment, which has not run yet (R112). -/
def Mover.lookaheadPath (mv : Mover) : Option Path :=
  mv.lookahead.map fun g =>
    match g.kind with
    | .move target _ _ _ => Path.between mv.p (mv.targetUsed target)
    | .dwell _ => Path.point mv.p
    | .align => Path.point mv.alignPoint

/-- An optional path needs the rule. -/
def Rule.neededBy (r : Rule) (m : MoverNo) : Option Path → Bool
  | some p => r.needs m p
  | none => false

/-- The state the rule takes if it grants mover m's request now; none if it refuses (R113, R114). -/
def State.grantedState (s : State) (r : Rule) (m : MoverNo) : Option RuleState :=
  if r.g == m then
    match r.state with
    | .free => if r.inRegion (s.mv r.k).p then some .held else none
    | .held => some .held
    | .released => none
  else
    match r.state with
    | .free => some .released
    | .released => some .released
    | .held => none

/-- The rule grants mover m's request and takes the state st (R113, R114). -/
def Rule.grantTo (r : Rule) (m : MoverNo) (st : RuleState) : Rule :=
  { r with state := st, refused := r.refused.filter fun w => w != m }

/-- The rule has refused mover m's most recent request (R117). -/
def Rule.refuse (r : Rule) (m : MoverNo) : Rule := { r with refused := if r.refused.contains m then r.refused else r.refused ++ [m] }

/-- A refused mover joins the tail of the waiting list with MOTION CLEARANCE_WAIT, unless it already waits (R118). -/
def State.joinRule (s : State) (c : RuleNo) (m : MoverNo) : State :=
  match s.rule c with
  | none => s
  | some r =>
    if r.waiting.contains m then s.setRule c (some (r.refuse m))
    else
      (s.setRule c (some { r.refuse m with waiting := r.waiting ++ [m] })).raise (.clearanceWait m c (r.g == m) r.holder)

/-- Mover m asks rule Cn for what it is to have of it: granted or refused by the rule's state (R113, R114, R116). -/
def State.requestRule (s : State) (c : RuleNo) (m : MoverNo) : State :=
  match s.rule c with
  | none => s
  | some r =>
    match s.grantedState r m with
    | some st => s.setRule c (some (r.grantTo m st))
    | none => s.joinRule c m

/-- The rules that the path of mover m needs and the mover does not have, in rule number order (R115). -/
def State.unheldNeeds (s : State) (m : MoverNo) (p : Option Path) : List RuleNo :=
  allRules.filter fun c =>
    match s.rule c with
    | some r => r.neededBy m p && !r.has m
    | none => false

/-- The requests of a path, in rule number order, each on its own (R116). -/
def State.requestPath (s : State) (m : MoverNo) (p : Option Path) : State :=
  (s.unheldNeeds m p).foldl (fun s c => s.requestRule c m) s

/-- The rules of a list that would refuse mover m now. -/
def State.refusing (s : State) (m : MoverNo) (cs : List RuleNo) : List RuleNo :=
  cs.filter fun c =>
    match s.rule c with
    | some r => (s.grantedState r m).isNone
    | none => false

/-- The mover leaves every waiting list it is on (R118). -/
def State.leaveLists (s : State) (m : MoverNo) : State :=
  allRules.foldl (fun s c => s.modRule c fun r => { r with waiting := r.waiting.filter fun w => w != m }) s

/-- The rules on whose waiting lists the mover stands, in rule number order. -/
def State.waitingOn (s : State) (m : MoverNo) : List RuleNo :=
  allRules.filter fun c =>
    match s.rule c with
    | some r => r.waiting.contains m
    | none => false

/-- Neither path of the mover needs the rule (R116). -/
def State.unneeded (s : State) (m : MoverNo) (r : Rule) : Bool :=
  !(r.neededBy m (s.mv m).execPath || r.neededBy m (s.mv m).lookaheadPath)

/-- The rules the mover waits on that neither of its paths needs (R116). -/
def State.staleWaits (s : State) (m : MoverNo) : List RuleNo :=
  (s.waitingOn m).filter fun c =>
    match s.rule c with
    | some r => s.unneeded m r
    | none => false

/-- The mover leaves the waiting list of rule Cn. -/
def State.leaveRule (s : State) (c : RuleNo) (m : MoverNo) : State :=
  s.modRule c fun r => { r with waiting := r.waiting.filter fun w => w != m }

/-- Every claim and release that the path needs is held by the mover (R64). -/
def State.needsHeld (s : State) (m : MoverNo) (p : Option Path) : Bool := (s.unheldNeeds m p).isEmpty

/-- The refused clearance boundary that rule r gives a mover travelling in a direction from p (R117). -/
def Rule.stopPoint (r : Rule) (m : MoverNo) (d : Dir) (p : Int) : Int :=
  let b : Int :=
    if r.g == m then
      match d with
      | .outward => r.zlo * 1000 - 1000
      | .inward => r.zhi * 1000 + 1000
    else
      match d with
      | .outward => r.rhi * 1000
      | .inward => r.rlo * 1000
  if d.sign * (b - p) < 0 then p else b

/-- The refused clearance boundaries of the mover: of the rules that it needs and does not have and that have refused its most recent
request (R117), formed where the profile reads them (DEDUCED, log entry 24). -/
def State.stopPoints (s : State) (m : MoverNo) (d : Dir) : List Int :=
  allRules.filterMap fun c =>
    match s.rule c with
    | some r =>
      if r.refused.contains m && !s.unneeded m r && !r.has m then some (r.stopPoint m d (s.mv m).p) else none
    | none => none

/-- The state a rule is freed to by the opening test of mover m; none while m does not have it or still needs it (R120). -/
def State.freedState (s : State) (r : Rule) (m : MoverNo) : Option RuleState :=
  let x := s.mv m
  let clearOf (f : Path → Bool) : Bool := !(x.execPath.any f || x.lookaheadPath.any f)
  if r.g == m && r.state == .held then
    if !r.inZone x.p && clearOf r.met then some (if r.inRegion (s.mv r.k).p then .free else .released) else none
  else if r.k == m && r.state == .released then
    if r.inRegion x.p && clearOf r.left then some (if r.inZone (s.mv r.g).p then .held else .free) else none
  else none

/-- At a position initialisation, every OPEN rule that names the mover takes the state its new p calls for (R122). -/
def State.resetOpenRules (s : State) (m : MoverNo) : State :=
  allRules.foldl
    (fun s c =>
      s.modRule c fun r =>
        if r.state != .free then r
        else if r.g == m && r.inZone (s.mv m).p then { r with state := .held }
        else if r.k == m && !r.inRegion (s.mv m).p then { r with state := .released }
        else r)
    s

end Sys2Proof.Machine
end

