-- ==== Sys2Proof/Machine/Power.lean ====
section
/-! DEFINITION. The Power Arbiter (05): requests, arbitration, grants, withdrawal, release and top-up, with the two states a
granted mover enters (R10, R11). -/

namespace Sys2Proof.Machine

/-- ceil(a / b) for b at least 1. -/
def ceilDiv (a b : Nat) : Nat := (a + b - 1) / b

/-- Vseg: a MOVE's V, and VCREEP for a DWELL or an ALIGN (R94). -/
def SegKind.requestSpeed (k : SegKind) (r : MoverRec) : Nat :=
  match k with
  | .move _ v _ _ => v
  | _ => r.vcreep

/-- The request amount R (R94). -/
def requestAmount (r : MoverRec) (k : SegKind) : Nat := ceilDiv (r.prated * k.requestSpeed r) r.vrated

/-- The minimum amount Rmin (R94). -/
def minimumAmount (r : MoverRec) (k : SegKind) : Nat := min (ceilDiv (r.prated * r.vcreep) r.vrated) (requestAmount r k)

/-- The granted sum (R93). -/
def State.grantedSum (s : State) : Nat := s.power.grants.toList.sum

/-- The free budget (R93). -/
def State.freeBudget (s : State) : Nat := s.power.budget - s.grantedSum

/-- RELEASING: BRAKE RELEASE is ordered, TBRK starts, and the lock stands confirmed withdrawn (R10, R11). -/
def State.enterReleasing (s : State) (m : MoverNo) : State :=
  (s.enter m .releasing fun x => { x with unlocked := true, brakeOrdered := false }).startTbrk m

/-- UNLOCKING: WITHDRAW is ordered and TLOCK starts (R10). -/
def State.enterUnlocking (s : State) (m : MoverNo) : State :=
  (s.enter m .unlocking fun x => { x with brakeOrdered := false }).startTlock m

/-- UNLOCKING, or through it to RELEASING when there is no lock station or its last report is WITHDRAWN (R10). -/
def State.unlock (s : State) (m : MoverNo) : State :=
  if (s.mv m).cfg.lockst.isNone || s.lockReport m == some .withdrawn then s.enterReleasing m else s.enterUnlocking m

/-- The mover after n, M0 following M7 (R96). -/
def MoverNo.next (m : MoverNo) : MoverNo := m + 1

/-- The grant of an entry: amount min(R, free), pointer, and the grant-taken event (R96, R10). -/
def State.grantEntry (s : State) (e : PowerRequest) : State :=
  let s := s.setGrant e.mover (min e.req s.freeBudget)
  let s := { s with power := { s.power with waiting := s.power.waiting.erase e, pointer := MoverNo.next e.mover } }
  s.unlock e.mover

/-- The PRIORITY head: the lowest PRIO, and among equals the first to arrive (R97). -/
def State.powerHead (s : State) : Option PowerRequest :=
  s.power.waiting.foldl
    (fun best e =>
      match best with
      | none => some e
      | some b => if (s.mv e.mover).cfg.prio < (s.mv b.mover).cfg.prio then some e else some b)
    none

/-- The entry fits the free budget. -/
def State.fits (s : State) (e : PowerRequest) : Bool := decide (e.min ≤ s.freeBudget)

/-- The first mover from the rotation pointer that has an entry that fits (R98). -/
def State.rotateSearch (s : State) : Option PowerRequest :=
  (List.range 8).findSome? fun i =>
    s.power.waiting.find? fun e => e.mover == s.power.pointer + Fin.ofNat 8 i && s.fits e

/-- The entry that the mode in force would grant now (R97, R98). -/
def State.nextGrant (s : State) : Option PowerRequest :=
  match s.power.mode with
  | .priority => s.powerHead.filter s.fits
  | .rotate => s.rotateSearch

/-- Arbitration, with as many grants as `n` allows; each grant shortens the list by one. -/
def State.arbitrateN : Nat → State → State
  | 0, s => s
  | n + 1, s =>
    match s.nextGrant with
    | none => s
    | some e => State.arbitrateN n (s.grantEntry e)

/-- Arbitration in the mode in force (R97, R98). -/
def State.arbitrate (s : State) : State := State.arbitrateN s.power.waiting.length s

/-- The mover has an entry on the waiting list. -/
def State.isWaiting (s : State) (m : MoverNo) : Bool := s.power.waiting.any fun e => e.mover == m

/-- The request of the mover's executing segment (R94). -/
def State.requestOf (s : State) (m : MoverNo) : PowerRequest :=
  let x := s.mv m
  match x.exec with
  | some e => { mover := m, req := requestAmount x.cfg e.seg.kind, min := minimumAmount x.cfg e.seg.kind }
  | none => { mover := m, req := 0, min := 0 }

/-- A request arrives: it joins the tail, arbitration runs, and POWER_WAIT is sent if it still waits (R95, R106). -/
def State.requestArrival (s : State) (m : MoverNo) : State :=
  let e := s.requestOf m
  let s := { s with power := { s.power with waiting := s.power.waiting ++ [e] } }.arbitrate
  if s.isWaiting m then s.raise (.powerWait m e.req e.min s.freeBudget) else s

/-- The mover enters AWAIT_POWER and hands in its request (R9, R16). -/
def State.enterAwaitPower (s : State) (m : MoverNo) : State := (s.enter m .awaitPower id).requestArrival m

/-- A waiting request is withdrawn, and arbitration runs (R99). -/
def State.withdrawRequest (s : State) (m : MoverNo) : State :=
  { s with power := { s.power with waiting := s.power.waiting.filter fun e => e.mover != m } }.arbitrate

/-- The whole grant is taken back, and arbitration runs (R100). -/
def State.releaseGrant (s : State) (m : MoverNo) : State := (s.setGrant m 0).arbitrate

/-- What a mover has of the arbiter is given back as its state calls for: the grant, or the waiting request (R99, R100). -/
def State.givePowerBack (s : State) (m : MoverNo) : State :=
  match (s.mv m).state with
  | .awaitPower => s.withdrawRequest m
  | .unlocking | .releasing | .running | .holding => s.releaseGrant m
  | _ => s

/-- The grant is adjusted to the new executing segment: a partial release, nothing, or a top-up (R101). -/
def State.adjustGrant (s : State) (m : MoverNo) : State :=
  let r := (s.requestOf m).req
  let g := s.grant m
  if r < g then (s.setGrant m r).arbitrate
  else s.setGrant m (g + min (r - g) s.freeBudget)

/-- The power speed in µm/s (R103). -/
def State.powerSpeed (s : State) (m : MoverNo) : Nat :=
  s.grant m * (s.mv m).cfg.vrated * 1000 / (s.mv m).cfg.prated

end Sys2Proof.Machine
end

