-- ==== Sys2Proof/Machine/Trim.lean ====
section
/-! DEFINITION. The Trim and Skew Monitor (04): measured positions, mean, skew, corrections, and the alignment set-up. -/

namespace Sys2Proof.Machine

/-- The executing segment is an ALIGN. -/
def Mover.aligning (mv : Mover) : Bool :=
  match mv.exec with
  | some e => e.seg.kind == .align
  | none => false

/-- A value clamped to −b..+b. -/
def clampMagnitude (b : Nat) (x : Int) : Int := max (-(b : Int)) (min x b)

/-- The bound of the corrections in force, µm/s: VCREEP during an ALIGN, else TCL (R86). -/
def Mover.trimClamp (mv : Mover) : Nat := (if mv.aligning then mv.cfg.vcreep else mv.cfg.tcl) * 1000

/-- The correction for a track error: e × KC / 16 truncated toward zero, then clamped (R86). -/
def Mover.correctionFor (mv : Mover) (e : Int) : Int := clampMagnitude mv.trimClamp ((e * mv.cfg.kc).tdiv 16)

/-- The largest entry of a list of positions, and 0 of an empty one. -/
def maxOf : List Int → Int
  | [] => 0
  | x :: xs => xs.foldl max x

/-- The smallest entry of a list of positions, and 0 of an empty one. -/
def minOf : List Int → Int
  | [] => 0
  | x :: xs => xs.foldl min x

/-- The mean of the measured positions, floor (R80). -/
def meanOf (xs : List Int) : Int := xs.sum / xs.length

/-- Mean, skew, errors and corrections from measured positions, against the commanded position p (R80, R86). -/
def Mover.trimFrom (mv : Mover) (p : Int) (xs : List Int) : Trim :=
  let es := xs.map fun a => p - a
  { measured := xs, errors := es, corrections := es.map mv.correctionFor, mean := meanOf xs, skew := maxOf xs - minOf xs }

/-- The measured positions a_i′ = POS − offset_i from the tracks' last valid reports; none while a track has no report (R79). -/
def State.measured (s : State) (m : MoverNo) : Option (List Int) :=
  let r := (s.mv m).cfg
  r.tracks.zipIdx.mapM fun t => (s.driveReport t.1).map fun d => d.1 - r.offs.getD t.2 0

/-- Stage 1 of the mover update (R6, R79, R80, R86). -/
def State.formTrim (s : State) (m : MoverNo) : State :=
  match s.measured m with
  | none => s
  | some xs => s.modMv m fun x => { x with trim := some (x.trimFrom x.p xs) }

/-- The alignment set-up of an ALIGN that has become executing: p to the mean, v and residue to 0, corrections formed afresh, and
the alignment timer started (R77, R78). Without a mean p stays (DESIGN CHOICE, log entry 58; no run from reset comes there). -/
def Mover.alignSetup (mv : Mover) : Mover :=
  let base := { mv with v := 0, residue := 0, alignLeft := some mv.cfg.talign }
  match mv.trim with
  | none => base
  | some t =>
    let p := mv.cfg.clampTravel t.mean
    { base with p := p, trim := some (mv.trimFrom p t.measured) }

end Sys2Proof.Machine
end

