-- ==== Sys2Proof/Machine/Movers.lean ====
section
/-! DEFINITION. The Mover Sequencers (01): the entries to the mover states and the effects that follow from one to another
within one event. An opening test may wake a mover, whose RUNNING entry may complete a zero-length MOVE, which runs an opening
test again; `completeN` is the one recursion, and the operations before it take the completion as the argument `cp`. -/

namespace Sys2Proof.Machine

/-- What the completion of an executing segment does: the argument of the operations that may lead to one. -/
abbrev Completion := MoverNo → SegOutcome → State → State

/-! ## Hold reasons (R13) -/

/-- The set with a reason added; the CLEARANCE rules stay in rule number order, each once (R13). -/
def HoldSet.add (h : HoldSet) : HoldReason → HoldSet
  | .operator => { h with operator := true }
  | .link => { h with link := true }
  | .wind => { h with wind := true }
  | .clearance cs => { h with clearance := allRules.filter fun c => h.clearance.contains c || cs.contains c }

/-- The set with a reason removed (R13). -/
def HoldSet.remove (h : HoldSet) : HoldReason → HoldSet
  | .operator => { h with operator := false }
  | .link => { h with link := false }
  | .wind => { h with wind := false }
  | .clearance cs => { h with clearance := h.clearance.filter fun c => !cs.contains c }

/-- HOLDING with the brake order given: BRAKE APPLY, VEL 0, and TBRK started (R14, R15). -/
def State.holdWithBrakes (s : State) (m : MoverNo) : State :=
  (s.enter m .holding fun x => { x with brakeOrdered := true }).startTbrk m

/-- HOLDING before the brake order; a running dwell or alignment timer pauses (R14, R76, R91). -/
def State.holdMoving (s : State) (m : MoverNo) : State :=
  (s.pauseSegmentTimers m).enter m .holding fun x => { x with brakeOrdered := false }

/-! ## The beginning of a segment (R36, R61, R78) -/

/-- The first RUNNING entry of the executing segment, or the switch that stands in for it: start time, path start, direction of a
MOVE, set-up of an ALIGN. -/
def State.beginSegment (s : State) (m : MoverNo) : State :=
  s.modMv m fun x =>
    match x.exec with
    | none => x
    | some e =>
      let x := if e.seg.kind == .align then x.alignSetup else x
      let d : Option Dir :=
        match e.seg.kind with
        | .move target _ _ _ =>
          if x.p < x.targetUsed target then some .outward else if x.targetUsed target < x.p then some .inward else none
        | _ => none
      { x with
        dir := d.or x.dir
        exec := some { e with part := { e.part with startTime := some s.timebase, pathStart := some x.p, dir := d } } }

/-- The executing segment is a MOVE whose target used equals p: it completes ARRIVED where it begins (R61). -/
def Mover.zeroLength (mv : Mover) : Bool :=
  match mv.exec with
  | some e =>
    match e.seg.kind with
    | .move target _ _ _ => decide (mv.targetUsed target = mv.p)
    | _ => false
  | none => false

/-- The executing segment has entered RUNNING. -/
def Mover.hasBegun (mv : Mover) : Bool :=
  match mv.exec with
  | some e => e.part.startTime.isSome
  | none => false

/-! ## RUNNING entry (R12, R115) -/

/-- The claim of an entry test is refused: the mover joins the refusing rules' lists, gets CLEARANCE with their numbers, and is in
HOLDING, with the brake order given at once when it comes from RELEASING (R12, R115). The lists are joined in rule number order
(DESIGN CHOICE, log entry 39). CLEARANCE names the refusing rules alone, not another rule on whose list the mover stands (R115 read
against R118; DEDUCED, log entry 51). -/
def State.refuseEntry (s : State) (m : MoverNo) (refused : List RuleNo) : State :=
  let s := refused.foldl (fun s c => s.joinRule c m) s
  let s := s.modMv m fun x => { x with holdSet := x.holdSet.add (.clearance refused) }
  if (s.mv m).state == .releasing then s.holdWithBrakes m else s

/-- The mover tries to enter RUNNING (R12): the all-or-nothing entry test of the executing path, then the look-ahead's requests
(R115), and at a first entry the beginning of the segment, completed at once if it has no length (R61). -/
def State.runningEntryWith (cp : Completion) (s : State) (m : MoverNo) : State :=
  let needs := s.unheldNeeds m (s.mv m).execPath
  let refused := s.refusing m needs
  if !refused.isEmpty then s.refuseEntry m refused
  else
    let s := needs.foldl (fun s c => s.requestRule c m) s
    let first := !(s.mv m).hasBegun
    let s := s.modMv m fun x =>
      { x with
        state := .running
        brakeOrdered := false
        exec := x.exec.map fun e => { e with part := { e.part with stopMark := false } } }
    let s := if first then s.beginSegment m else s
    let s := s.requestPath m (s.mv m).lookaheadPath
    let s := s.writeImages m
    if first && (s.mv m).zeroLength then cp m .arrived s else s

/-! ## Removal of hold reasons (R16) and opening tests (R120, R121) -/

/-- The hold-reason set has become empty (R16). -/
def State.wakeWith (cp : Completion) (s : State) (m : MoverNo) : State :=
  let x := s.mv m
  match x.state with
  | .holding =>
    if x.stopInProgress then s
    else if !x.brakeOrdered then s.runningEntryWith cp m
    else
      let s := s.cancelTbrk m
      if x.unlocked then s.enterReleasing m else s.unlock m
  | .held => s.enterAwaitPower m
  | _ => s

/-- Reasons are removed from the mover's set as one removal; if that empties the set, the mover acts by its state (R16). A removal
of a reason that is not present changes nothing (R13). -/
def State.removeReasonsWith (cp : Completion) (s : State) (m : MoverNo) (rs : List HoldReason) : State :=
  let before := (s.mv m).holdSet
  let after := rs.foldl HoldSet.remove before
  let s := s.modMv m fun x => { x with holdSet := after }
  if !before.isEmpty && after.isEmpty then s.wakeWith cp m else s

/-- The opening test of one rule, and, where it frees the rule, the emptying of its list and the removal of CLEARANCE from the
movers that stood on it (R120, R121). -/
def State.openingTestWith (cp : Completion) (m : MoverNo) (s : State) (c : RuleNo) : State :=
  match s.rule c with
  | none => s
  | some r =>
    match s.freedState r m with
    | none => s
    | some st =>
      r.waiting.foldl (fun s w => s.removeReasonsWith cp w [.clearance [c]])
        (s.setRule c (some { r with state := st, waiting := [] }))

/-- The opening tests of a mover, in rule number order (R120; DEDUCED, log entry 16). -/
def State.openingTestsWith (cp : Completion) (s : State) (m : MoverNo) : State :=
  allRules.foldl (State.openingTestWith cp m) s

/-! ## Completion, segment switch and ENDING (R19, R43) -/

/-- ENDING: the grant is taken back, brakes and, where LOCK=1, the lock are ordered, and MOTION CHAIN_END is sent (R19). -/
def State.enterEnding (s : State) (m : MoverNo) (last : Segment) : State :=
  let s := (s.givePowerBack m).leaveLists m
  let s := s.enter m .ending fun x =>
    { x with
      holdSet := {}
      unlocked := false
      brakeOrdered := false
      endBrakeSeen := false
      endLockSeen := false
      endLock := last.lock && x.cfg.lockst.isSome }
  let s := s.startTbrk m
  let s := if (s.mv m).endLock then s.startTlock m else s
  s.raise (.chainEnd m last.tag)

/-- The take of a segment switch with what follows it in the pool, the arbiter and the table (R43, R61, R101, R116): the look-ahead's
requests come last. A refusal for a DWELL or an ALIGN adds CLEARANCE with the refusing rules at once (DEDUCED, log entry 51), and the
mover holds. -/
def State.switchSegment (s : State) (m : MoverNo) : State :=
  let s := ((s.take m).adjustGrant m).beginSegment m
  let s := s.requestPath m (s.mv m).execPath
  let refused := s.unheldNeeds m (s.mv m).execPath
  let isMove := match (s.mv m).exec with
    | some e => match e.seg.kind with
      | .move .. => true
      | _ => false
    | none => false
  if refused.isEmpty || isMove then (s.requestPath m (s.mv m).lookaheadPath).writeImages m
  else (s.modMv m fun x => { x with holdSet := x.holdSet.add (.clearance refused) }).holdMoving m

/-- The executing segment completes in RUNNING (R43), followed by the opening tests of R120. Those of a completion that takes a
zero-length MOVE run before it completes (DEDUCED, log entry 45). `n` bounds the segments that may
complete within the one event: each completion logs one of the at most 256 segments, so `completeSegment` never runs out. -/
def State.completeN : Nat → Completion
  | 0 => fun _ _ s => s
  | n + 1 => fun m o s =>
    match (s.mv m).exec with
    | none => s
    | some e =>
      let s := s.logExecuting m o none
      if (s.mv m).chain.isEmpty then (s.enterEnding m e.seg).openingTestsWith (State.completeN n) m
      else
        let s := (s.switchSegment m).openingTestsWith (State.completeN n) m
        if (s.mv m).state == .running && (s.mv m).zeroLength then State.completeN n m .arrived s else s

/-- The completion of the executing segment (R43). -/
def State.completeSegment : Completion := State.completeN (Config.poolSize + 1)

/-- RUNNING entry (R12). -/
def State.runningEntry (s : State) (m : MoverNo) : State := s.runningEntryWith State.completeSegment m

/-- A removal of reasons reaches the mover (R16). -/
def State.removeReasons (s : State) (m : MoverNo) (rs : List HoldReason) : State :=
  s.removeReasonsWith State.completeSegment m rs

/-- The opening tests of a mover (R120). -/
def State.openingTests (s : State) (m : MoverNo) : State := s.openingTestsWith State.completeSegment m

/-! ## HELD and the addition of hold reasons (R14, R15) -/

/-- HELD: stationary, brakes applied, the executing segment kept; MOTION HELD is sent and then the opening tests run, with the notices
of the movers they wake (R14, R15, R120; their order: DESIGN CHOICE, log entry 49). What the mover had of the arbiter has been given
back before, with the arbitration (DESIGN CHOICE, log entry 57). -/
def State.enterHeld (s : State) (m : MoverNo) : State :=
  let s := s.enter m .held fun x => { x with unlocked := false, brakeOrdered := false }
  (s.raise (.held m (s.mv m).holdSet)).openingTests m

/-- A reason is added to the mover's set and acts by its state (R13, R14). An addition of no rule is none. -/
def State.addReason (s : State) (m : MoverNo) (r : HoldReason) : State :=
  let x := s.mv m
  let set := x.holdSet.add r
  if !x.state.recordsHold || set.isEmpty then s
  else
    let s := s.modMv m fun x => { x with holdSet := set }
    match x.state with
    | .awaitPower => (s.withdrawRequest m).enterHeld m
    | .unlocking => (s.cancelTlock m).holdWithBrakes m
    | .releasing => s.holdWithBrakes m
    | .running => s.holdMoving m
    | _ => s

/-! ## Position initialisation (R8, R122) -/

/-- p is set to a mean clamped into travel with residue 0, and the position-unset mark is cleared (R8). -/
def Mover.initPosition (mv : Mover) (mean : Int) : Mover :=
  { mv with p := mv.cfg.clampTravel mean, residue := 0, positionUnset := false }

/-- The position initialisation at rest: from each track's last valid report, or nothing while a track has none (R8); then the
OPEN rules that name the mover take the states its p calls for (R122). -/
def State.initPositionAtRest (s : State) (m : MoverNo) : State :=
  match s.measured m with
  | none => s
  | some xs => (s.modMv m fun x => x.initPosition (meanOf xs)).resetOpenRules m

/-! ## Starting, triggers and IDLE (R9, R138, R139) -/

/-- The mover starts on the segment just taken: HELD with WIND under a hold that is not CLEAR, else AWAIT_POWER (R9, R133). -/
def State.startTaken (s : State) (m : MoverNo) : State :=
  if (s.mv m).isExposed && s.wx.hold != .clear then
    (s.modMv m fun x => { x with holdSet := x.holdSet.add .wind }).enterHeld m
  else s.enterAwaitPower m

/-- The first test of a trigger launch that fails (R138). -/
def State.launchRefusal (s : State) (m : MoverNo) : Option LaunchRefusal :=
  if s.pins.stopOpen then some .stopOpen
  else if s.trackLost m || (s.mv m).positionUnset then some .feedback
  else if s.pool.free.isEmpty then some .poolEmpty
  else none

/-- A trigger launch (R138): the tests, the plan copy (R42), TRIGGERED, and the start as by GO. -/
def State.launch (s : State) (m : MoverNo) : State :=
  match (s.trig m).plan with
  | none => s
  | some plan =>
    match s.launchRefusal m with
    | some r => s.raise (.triggerFailed m r)
    | none =>
      let flushed := (s.mv m).chain.length
      let slot := s.pool.free.headD 0
      let s := (((s.flushChain m).placeSegment m plan .plan).take m).raise (.triggered m plan.tag slot flushed)
      s.startTaken m

/-- IDLE: the set is emptied, the mover leaves every waiting list, the skew-warning flag is cleared, the opening tests run, and then a
pending trigger launches (R10, R13, R78, R118, R120, R139; the order of the last two: DESIGN CHOICE, log entry 50). -/
def State.enterIdle (s : State) (m : MoverNo) : State :=
  let s := (s.leaveLists m).enter m .idle fun x =>
    { x with
      holdSet := {}
      unlocked := false
      stopInProgress := false
      brakeOrdered := false
      skewWarn := false }
  let s := s.openingTests m
  if (s.trig m).pendingFlag then (s.modTrig m fun t => { t with pendingFlag := false }).launch m else s

/-! ## Emergency stop and faults (R21, R23) -/

/-- What STOPPING and FAULT entries do alike (R21, R23): the power given back, the executing segment logged, the pending trigger
flag cleared, the waiting lists left, v and residue set to 0, and the timers of the state that is left cancelled. -/
def State.abandonWork (s : State) (m : MoverNo) (o : SegOutcome) (k : Option FaultKind) : State :=
  let s := (s.givePowerBack m).logExecuting m o k
  let s := (s.modTrig m fun t => { t with pendingFlag := false }).leaveLists m
  let s := (((s.cancelTlock m).cancelTbrk m).cancelTstop m).cancelAlign m
  s.modMv m fun x =>
    { x with
      holdSet := {}
      stopInProgress := false
      unlocked := false
      brakeOrdered := false
      v := 0
      residue := 0 }

/-- STOPPING (R21). -/
def State.enterStopping (s : State) (m : MoverNo) : State :=
  ((s.abandonWork m .cut none).enter m .stopping id).startTstop m

/-- The emergency stop reaches one mover (R20). -/
def State.emergencyStop (s : State) (m : MoverNo) : State :=
  if (s.mv m).state.estopActs then s.enterStopping m else s

/-- FAULT with a primary kind and the other kinds found at the same update (R23, R26, R27). A FAULT entered inside an update that has
formed its mean saves that mean (DEDUCED, log entry 18). The power is given back before the opening tests (DESIGN CHOICE, log
entry 57). -/
def State.enterFault (s : State) (m : MoverNo) (k : FaultKind) (others : List FaultKind) : State :=
  let s := s.abandonWork m .faulted (some k)
  let s := s.enter m .fault fun x =>
    { x with
      fault := some
        { primary := k, time := s.timebase, p := x.p, mean := x.mean, secondary := others, stopComplete := false } }
  ((s.startTstop m).openingTests m).raise (.fault m k)

/-- A kind detected while the mover is in FAULT is added to the secondary set, unless it is the primary kind or already there (R26). -/
def FaultRec.note (f : FaultRec) (k : FaultKind) : FaultRec :=
  if f.primary == k || f.secondary.contains k then f else { f with secondary := f.secondary ++ [k] }

/-- STOPPED: p is initialised and the opening tests run (R22). -/
def State.enterStopped (s : State) (m : MoverNo) : State :=
  (((s.cancelTstop m).enter m .stopped fun x => { x with brakeOrdered := false }).initPositionAtRest m).openingTests m

/-- The fault stop is complete (R27). -/
def State.completeFaultStop (s : State) (m : MoverNo) : State :=
  ((s.cancelTstop m).modMv m fun x => { x with fault := x.fault.map fun f => { f with stopComplete := true } }).writeImages m

/-! ## The controlled stop (R18) -/

/-- A controlled stop ends: the executing segment is logged CUT, the chain is flushed, and the mover enters IDLE (R18). -/
def State.finishStop (s : State) (m : MoverNo) : State := ((s.logExecuting m .cut none).flushChain m).enterIdle m

end Sys2Proof.Machine
end

