-- ==== Sys2Proof/Machine/Weather.lean ====
section
/-! DEFINITION. The Weather Monitor (07): the wind figure, the derate percent, the wind hold, rain and triggers. -/

namespace Sys2Proof.Machine

/-- A station is live: ONLINE or STALE, with a valid report (R128). -/
def State.isLive (s : State) (st : StationNo) : Bool :=
  match s.stn st with
  | some x => x.health != .lost && x.report.isSome
  | none => false

/-- The live sources (R128). -/
def State.liveSources (s : State) : List StationNo := s.wx.sources.filter s.isLive

/-- MEAN, GUST and RAIN of a WEATHER station's last valid report. -/
def State.weatherReport (s : State) (st : StationNo) : Option (Nat × Nat × Bool) :=
  match s.lastReport st with
  | some (.weather mean gust wet) => some (mean, gust, wet)
  | _ => none

/-- The wind figure of the live sources (R128). -/
def State.windFigure (s : State) : Option WindFigure :=
  let rs := s.liveSources.filterMap s.weatherReport
  if rs.isEmpty then none
  else some { mean := rs.foldl (fun a r => max a r.1) 0, gust := rs.foldl (fun a r => max a r.2.1) 0 }

/-- The derate percent that a figure and a hold state give (R129). -/
def deratePercent (hold : WindHold) (t : WxThresholds) (f : Option WindFigure) : Nat :=
  match hold, f with
  | .clear, some f =>
    if f.mean ≤ t.w1 then 100
    else if f.mean < t.w2 then 100 - (f.mean - t.w1) * 100 / (t.w2 - t.w1)
    else 0
  | _, _ => 0

/-- The derate percent is formed from the figure and the hold as they stand (R129). -/
def State.formDerate (s : State) : State :=
  match s.wx.thresholds with
  | some t => { s with wx := { s.wx with derate := deratePercent s.wx.hold t s.wx.figure } }
  | none => { s with wx := { s.wx with derate := 0 } }

/-- The cause for which a CLEAR hold engages, the first that holds in the order MEAN, GUST, NOSOURCE (R130). -/
def engageCause (t : WxThresholds) : Option WindFigure → Option WindCause
  | none => some .noSource
  | some f => if t.w2 ≤ f.mean then some .mean else if t.gh ≤ f.gust then some .gust else none

/-- The calm condition (R131). -/
def calmHolds (t : WxThresholds) : Option WindFigure → Bool
  | none => false
  | some f => decide (f.mean < t.w1) && decide (f.gust < t.gh)

/-- The configured EXPOSED movers. The postings of R130 and the removals of R132 reach them in number order (DESIGN CHOICE, log
entry 40). -/
def State.exposedMovers (s : State) : List MoverNo := allMovers.filter fun m => (s.mv m).isExposed

/-- The configured movers in number order. -/
def State.configuredMovers (s : State) : List MoverNo := allMovers.filter fun m => (s.mv m).configured

/-- An event is posted to each mover of a list, in the list's order. -/
def State.postEach (s : State) (ms : List MoverNo) (f : MoverNo → Instr) : State := ms.foldl (fun s m => s.post (f m)) s

/-- The hold engages (R130): WIND_HOLD, and WIND posted to every configured EXPOSED mover. -/
def State.engageHold (s : State) (c : WindCause) : State :=
  let s := { s with wx := { s.wx with hold := .engaged, derate := 0 } }.raise (.windHold c s.wx.figure)
  s.postEach s.exposedMovers fun m => .holdReasonAddition m .wind

/-- RELEASING falls back to ENGAGED: the release timer is cancelled (R127, R131). -/
def State.reengageHold (s : State) : State :=
  { s.unpost .releaseTimerExpiry with wx := { s.wx with hold := .engaged, releaseTimer := none } }

/-- In CLEAR, the engage test (R130). -/
def State.engageTest (s : State) (t : WxThresholds) : State :=
  match engageCause t s.wx.figure with
  | some c => s.engageHold c
  | none => s

/-- The wind figure is formed afresh (R128). -/
def State.formFigure (s : State) : State := { s with wx := { s.wx with figure := s.windFigure } }

/-- The hold at a report arrival (R130, R131). -/
def State.holdAtReport (s : State) (t : WxThresholds) : State :=
  match s.wx.hold with
  | .clear => s.engageTest t
  | .engaged =>
    if calmHolds t s.wx.figure then
      { s with wx := { s.wx with hold := .releasing, releaseTimer := some (t.rel * 1000) } }
    else s
  | .releasing => if calmHolds t s.wx.figure then s else s.reengageHold

/-- The hold at a source loss (R130, R131). -/
def State.holdAtLoss (s : State) (t : WxThresholds) : State :=
  match s.wx.hold with
  | .clear => s.engageTest t
  | .engaged => s
  | .releasing => if s.wx.figure.isNone then s.reengageHold else s

/-- The hold at an accepted SETWX (R127). -/
def State.holdAtSetwx (s : State) (t : WxThresholds) : State :=
  match s.wx.hold with
  | .clear => s.engageTest t
  | .engaged => s
  | .releasing => if calmHolds t s.wx.figure then s else s.reengageHold

/-- The live sources whose last valid report carries RAIN WET (R134), in the order of the source list (DESIGN CHOICE, log entry 47). -/
def State.wetSources (s : State) : List StationNo :=
  s.liveSources.filter fun st =>
    match s.weatherReport st with
    | some (_, _, wet) => wet
    | none => false

/-- The trigger of the mover fires at an edge: it is configured, its mask is clear and its plan present (R137). -/
def State.triggerArmed (s : State) (m : MoverNo) : Bool :=
  (s.mv m).configured && !(s.trig m).masked && (s.trig m).plan.isSome

/-- The rain state is formed; a DRY-to-WET edge sends RAIN and fires the triggers, a WET-to-DRY edge sends DRY (R134, R137). -/
def State.formRain (s : State) : State :=
  let wets := s.wetSources
  if !wets.isEmpty && !s.wx.wet then
    let s := { s with wx := { s.wx with wet := true } }.raise (.rain wets)
    s.postEach (allMovers.filter s.triggerArmed) fun m => .triggerFiring m
  else if wets.isEmpty && s.wx.wet then { s with wx := { s.wx with wet := false } }.raise .dry
  else s

/-- A report arrival at the Weather Monitor: of a source that is live (R128). -/
def State.reportArrival (s : State) (st : StationNo) : State :=
  match s.wx.thresholds with
  | some t => if s.liveSources.contains st then ((s.formFigure.holdAtReport t).formDerate).formRain else s
  | none => s

/-- A source loss: of a source that is not live (R128, R131). NO_SOURCE is sent where it leaves none, before any WIND_HOLD (R130). Of two
sources that one event makes LOST each loss finds none live (DESIGN CHOICE, log entry 52). -/
def State.sourceLoss (s : State) (st : StationNo) : State :=
  match s.wx.thresholds with
  | some t =>
    if s.wx.sources.contains st && !s.isLive st then
      let s := s.formFigure
      let s := if s.wx.figure.isNone then s.raise .noSource else s
      (s.holdAtLoss t).formDerate
    else s
  | none => s

/-- The release timer expires (R132); in a state other than RELEASING it does not run. -/
def State.releaseExpiry (s : State) : State :=
  if s.wx.hold == .releasing then
    let s := { s with wx := { s.wx with hold := .clear, releaseTimer := none } }.formDerate
    let s := s.raise (.windClear s.wx.figure)
    s.postEach s.exposedMovers fun m => .holdReasonRemoval m .wind
  else s

/-- A trigger firing reaches a mover and acts by its state (R137, R138, R139). -/
def State.fireTrigger (s : State) (m : MoverNo) : State :=
  if !s.triggerArmed m then s
  else
    match (s.mv m).state with
    | .idle => s.launch m
    | .awaitPower | .unlocking | .releasing | .running | .holding | .held | .ending =>
      s.modTrig m fun t => { t with pendingFlag := true }
    | _ => s

end Sys2Proof.Machine
end

