-- ==== Sys2Proof/Machine/Render.lean ====
section
/-! DEFINITION. Words and numbers as the supervisory link writes them (09, Layouts), and the fields of replies and notices. -/

namespace Sys2Proof.Machine

/-! ## Numbers -/

/-- A decimal digit. -/
def digitChar (n : Nat) : Char := Char.ofNat (48 + n % 10)

/-- The decimal digits of n, at most `fuel` of them, before the digits already written. -/
def natDigits : Nat → Nat → Text → Text
  | 0, _, acc => acc
  | fuel + 1, n, acc => if n < 10 then digitChar n :: acc else natDigits fuel (n / 10) (digitChar n :: acc)

/-- A natural number in decimal, without leading zeros. -/
def natText (n : Nat) : Text := natDigits (Nat.log2 n + 1) n []

/-- An integer in decimal, with a leading minus sign when negative. -/
def intText (x : Int) : Text := if x < 0 then '-' :: natText x.natAbs else natText x.natAbs

/-- The minus sign used for an absent value. -/
def absent : Text := ['-']

/-- A value, or the minus sign where it is absent. -/
def orAbsent {α : Type} (f : α → Text) : Option α → Text
  | some x => f x
  | none => absent

/-- 1 or 0. -/
def flagText (b : Bool) : Text := if b then ['1'] else ['0']

/-- Micrometres in mm, truncated toward zero. -/
def mmText (um : Int) : Text := intText (um.tdiv 1000)

/-- Values joined by a separator. -/
def joinText (sep : Char) : List Text → Text
  | [] => []
  | [x] => x
  | x :: xs => x ++ sep :: joinText sep xs

/-- A comma list, or NONE when it is empty. -/
def listOrNone : List Text → Text
  | [] => "NONE".toList
  | xs => joinText ',' xs

/-! ## Words -/

/-- M0..M7. -/
def moverText (m : MoverNo) : Text := 'M' :: natText m.val

/-- M0..M7, or NONE. -/
def moverOrNone : Option MoverNo → Text
  | some m => moverText m
  | none => "NONE".toList

/-- S0..S23. -/
def stationText (st : StationNo) : Text := 'S' :: natText st.val

/-- C0..C15. -/
def ruleText (c : RuleNo) : Text := 'C' :: natText c.val

/-- A or B. -/
def lineWord : LineId → Text
  | .A => ['A']
  | .B => ['B']

/-- The mover states. -/
def MoverState.word : MoverState → String
  | .unconfigured => "UNCONFIGURED"
  | .idle => "IDLE"
  | .awaitPower => "AWAIT_POWER"
  | .unlocking => "UNLOCKING"
  | .releasing => "RELEASING"
  | .running => "RUNNING"
  | .holding => "HOLDING"
  | .held => "HELD"
  | .ending => "ENDING"
  | .stopping => "STOPPING"
  | .stopped => "STOPPED"
  | .fault => "FAULT"

/-- The fault kinds (R23, R26). -/
def FaultKind.word : FaultKind → String
  | .feedback => "FEEDBACK"
  | .drive => "DRIVE"
  | .overtravel => "OVERTRAVEL"
  | .lock => "LOCK"
  | .brake => "BRAKE"
  | .stopTimeout => "STOP_TIMEOUT"
  | .skew => "SKEW"
  | .follow => "FOLLOW"
  | .align => "ALIGN"
  | .stopUnconfirmed => "STOP_UNCONFIRMED"

/-- The reason codes (R167). -/
def Reason.word : Reason → String
  | .unknown => "UNKNOWN"
  | .format => "FORMAT"
  | .range => "RANGE"
  | .busy => "BUSY"
  | .undefined => "UNDEFINED"
  | .conflict => "CONFLICT"
  | .poolEmpty => "POOL_EMPTY"
  | .chainFull => "CHAIN_FULL"
  | .chainEmpty => "CHAIN_EMPTY"
  | .linkLost => "LINK_LOST"
  | .stopOpen => "STOP_OPEN"
  | .feedback => "FEEDBACK"
  | .causePresent => "CAUSE_PRESENT"
  | .budgetInUse => "BUDGET_IN_USE"
  | .queueFull => "QUEUE_FULL"
  | .full => "FULL"

/-- KIND of a segment. -/
def SegKind.word : SegKind → String
  | .move .. => "MOVE"
  | .dwell .. => "DWELL"
  | .align => "ALIGN"

/-- OUTCOME of a completion record (R37). -/
def SegOutcome.word : SegOutcome → String
  | .arrived => "ARRIVED"
  | .dwelled => "DWELLED"
  | .aligned => "ALIGNED"
  | .cut => "CUT"
  | .faulted => "FAULTED"
  | .flushed => "FLUSHED"

/-- The name of a clamped field (R40). -/
def ClampField.word : ClampField → String
  | .target => "TO"
  | .v => "V"
  | .a => "A"
  | .d => "D"
  | .t => "T"

/-- The origin of a segment (R52). -/
def Origin.word : Origin → String
  | .staged => "STAGED"
  | .plan => "PLAN"

/-- The arbitration mode. -/
def PowerMode.word : PowerMode → String
  | .priority => "PRIORITY"
  | .rotate => "ROTATE"

/-- The state of a rule (R109). -/
def RuleState.word : RuleState → String
  | .free => "OPEN"
  | .held => "HELD"
  | .released => "RELEASED"

/-- The wind hold. -/
def WindHold.word : WindHold → String
  | .clear => "CLEAR"
  | .engaged => "ENGAGED"
  | .releasing => "RELEASING"

/-- CAUSE of a WIND_HOLD. -/
def WindCause.word : WindCause → String
  | .mean => "MEAN"
  | .gust => "GUST"
  | .noSource => "NOSOURCE"

/-- CAUSE of a lost link. -/
def LinkCause.word : LinkCause → String
  | .timeout => "TIMEOUT"
  | .early => "EARLY"

/-- The failed test of a launch. -/
def LaunchRefusal.word : LaunchRefusal → String
  | .stopOpen => "STOP_OPEN"
  | .feedback => "FEEDBACK"
  | .poolEmpty => "POOL_EMPTY"

/-- RES of a LINE SERVICE. -/
def ServiceResult.word : ServiceResult → String
  | .ok => "OK"
  | .refused => "REFUSED"
  | .noReply => "NOREPLY"

/-- TYPE of a station. -/
def StationType.word : StationType → String
  | .drive => "DRIVE"
  | .lock => "LOCK"
  | .weather => "WEATHER"

/-- State of a station. -/
def Health.word : Health → String
  | .online => "ONLINE"
  | .stale => "STALE"
  | .lost => "LOST"

/-- The class of a notice. -/
def NoticeClass.word : NoticeClass → String
  | .safety => "SAFETY"
  | .motion => "MOTION"
  | .weather => "WEATHER"
  | .line => "LINE"

/-- DRY or WET. -/
def rainWord (wet : Bool) : String := if wet then "WET" else "DRY"

/-- The hold-reason set in the form of MOVERSTAT (R29), the reasons in the order of R13's table (DESIGN CHOICE, log entry 44). -/
def HoldSet.text (h : HoldSet) : Text :=
  listOrNone
    ((if h.operator then ["OPERATOR".toList] else []) ++ (if h.link then ["LINK".toList] else []) ++
      (if h.wind then ["WIND".toList] else []) ++
      (if h.clearance.isEmpty then []
       else [joinText '/' ("CLEARANCE".toList :: h.clearance.map ruleText)]))

/-- The fields of a report in frame order (R159). -/
def Report.text : Report → Text
  | .drive pos st b =>
    let st := match st with
      | .ready => "READY"
      | .running => "RUNNING"
      | .stopping => "STOPPING"
      | .tripped => "TRIPPED"
      | .disabled => "DISABLED"
    let b := match b with
      | .applied => "APPLIED"
      | .released => "RELEASED"
      | .travelling => "TRAVELLING"
    joinText '/' [intText pos, st.toList, b.toList]
  | .lock st =>
    match st with
    | .engaged => "ENGAGED".toList
    | .withdrawn => "WITHDRAWN".toList
    | .moving => "MOVING".toList
    | .jammed => "JAMMED".toList
  | .weather mean gust wet => joinText '/' [natText mean, natText gust, (rainWord wet).toList]

/-- The fields of an order image (R159). -/
def Image.text : Image → Text
  | .drive v b m =>
    let b := match b with
      | .apply => "APPLY"
      | .release => "RELEASE"
    let m := match m with
      | .normal => "NORMAL"
      | .quick => "QUICK"
    joinText '/' [intText v, b.toList, m.toList]
  | .lock c =>
    match c with
    | .keep => "KEEP".toList
    | .engage => "ENGAGE".toList
    | .withdraw => "WITHDRAW".toList
  | .weather => "NONE".toList

/-! ## Fields -/

/-- A field with a text value. -/
def fieldText (k : String) (v : Text) : OutField := ⟨k, v⟩

/-- A field with a number. -/
def fieldNat (k : String) (n : Nat) : OutField := ⟨k, natText n⟩

/-- A field with a word. -/
def fieldWord (k : String) (w : String) : OutField := ⟨k, w.toList⟩

/-- A field as it stands on a line. -/
def OutField.text (f : OutField) : Text := f.key.toList ++ '=' :: f.value

/-- MEAN and GUST of a figure, minus signs when it is absent (R130, R140). -/
def figureFields (f : Option WindFigure) : List OutField :=
  [fieldText "MEAN" (orAbsent (fun x : WindFigure => natText x.mean) f),
   fieldText "GUST" (orAbsent (fun x : WindFigure => natText x.gust) f)]

/-- Kind and fields of a notice, in the order of R179. -/
def NoticeKind.render : NoticeKind → String × List OutField
  | .stopOpen => ("STOP_OPEN", [])
  | .stopClosed => ("STOP_CLOSED", [])
  | .fault m k => ("FAULT", [fieldNat "M" m.val, fieldWord "KIND" k.word])
  | .linkLost c => ("LINK_LOST", [fieldWord "CAUSE" c.word])
  | .triggered m t sl n =>
    ("TRIGGERED", [fieldNat "M" m.val, fieldNat "TAG" t, fieldNat "SLOT" sl.val, fieldNat "FLUSHED" n])
  | .triggerFailed m r => ("TRIGGER_FAILED", [fieldNat "M" m.val, fieldWord "REASON" r.word])
  | .held m h => ("HELD", [fieldNat "M" m.val, fieldText "HOLD" h.text])
  | .powerWait m r mn f =>
    ("POWER_WAIT", [fieldNat "M" m.val, fieldNat "REQ" r, fieldNat "MIN" mn, fieldNat "FREE" f])
  | .clearanceWait m c claim h =>
    ("CLEARANCE_WAIT",
      [fieldNat "M" m.val, fieldNat "C" c.val, fieldWord "NEED" (if claim then "CLAIM" else "RELEASE"),
       fieldText "HOLDER" (moverOrNone h)])
  | .chainLow m n => ("CHAIN_LOW", [fieldNat "M" m.val, fieldNat "CHAIN" n])
  | .chainEnd m t => ("CHAIN_END", [fieldNat "M" m.val, fieldNat "TAG" t])
  | .logReady n => ("LOG_READY", [fieldNat "LOG" n])
  | .skewWarn m x => ("SKEW_WARN", [fieldNat "M" m.val, fieldText "SKEW" (intText x)])
  | .windHold c f => ("WIND_HOLD", fieldWord "CAUSE" c.word :: figureFields f)
  | .windClear f => ("WIND_CLEAR", figureFields f)
  | .rain ss => ("RAIN", [fieldText "SRC" (joinText ',' (ss.map stationText))])
  | .dry => ("DRY", [])
  | .noSource => ("NO_SOURCE", [])
  | .stationLost st l a o =>
    ("STATION_LOST",
      [fieldNat "ST" st.val, fieldText "LINE" (lineWord l), fieldNat "ADDR" a, fieldText "OWNER" (moverOrNone o)])
  | .stationBack st l a => ("STATION_BACK", [fieldNat "ST" st.val, fieldText "LINE" (lineWord l), fieldNat "ADDR" a])
  | .overrun l r => ("OVERRUN", [fieldText "LINE" (lineWord l), fieldNat "ROUND" r.toNat])
  | .service i st r v =>
    ("SERVICE",
      [fieldNat "ID" i.toNat, fieldNat "ST" st.val, fieldWord "RES" r.word, fieldText "VAL" (orAbsent intText v)])

/-- A record of the completion log as a REC= value (R52). -/
def LogRecord.text (r : LogRecord) : Text :=
  joinText '/'
    [natText r.seg.slot.val, natText r.seg.mover.val, natText r.seg.tag, r.seg.kind.word.toList, r.outcome.word.toList,
     orAbsent (fun t : Time => natText t.toNat) (r.part.bind ExecPart.startTime), natText r.endTime.toNat,
     orAbsent mmText (if r.part.isSome then r.endPos else none),
     orAbsent (fun p : ExecPart => mmText p.peakSkew) r.part,
     orAbsent (fun p : ExecPart => flagText p.derated) r.part,
     orAbsent (fun k : FaultKind => k.word.toList) r.faultKind,
     if r.seg.clamps.isEmpty then absent else joinText ':' (r.seg.clamps.map fun f => f.word.toList),
     r.seg.origin.word.toList]

end Sys2Proof.Machine
end

