-- ==== Sys2Proof/Machine/Link.lean ====
section
/-! DEFINITION. The Supervisory Link Port (09): the receiver, the input buffer, link supervision, the reply queue and the
transmitter, with the Notice Unit's hand-over (10). -/

namespace Sys2Proof.Machine

/-! ## Characters, checksums and elements of a line -/

/-- The character an octet stands for. -/
def octetChar (o : Octet) : Char := Char.ofNat o.toNat

/-- The octet of a character. -/
def charOctet (c : Char) : Octet := BitVec.ofNat 8 c.toNat

/-- A character 0x20..0x7E (R162). -/
def printable (c : Char) : Bool := decide (0x20 ≤ c.toNat) && decide (c.toNat ≤ 0x7E)

/-- CR. -/
def carriageReturn : Char := Char.ofNat 13

/-- LF. -/
def lineFeed : Char := Char.ofNat 10

/-- The XOR of the characters of a text (R162, Layouts). -/
def checksum (t : Text) : Octet := t.foldl (fun x c => x ^^^ charOctet c) 0

/-- An upper-case hexadecimal digit. -/
def hexChar (n : Nat) : Char := if n % 16 < 10 then Char.ofNat (48 + n % 16) else Char.ofNat (55 + n % 16)

/-- The two upper-case hexadecimal digits of an octet. -/
def hexText (o : Octet) : Text := [hexChar (o.toNat / 16), hexChar (o.toNat % 16)]

/-- A decimal digit. -/
def isDigit (c : Char) : Bool := decide (48 ≤ c.toNat) && decide (c.toNat ≤ 57)

/-- An upper-case letter. -/
def isUpper (c : Char) : Bool := decide (65 ≤ c.toNat) && decide (c.toNat ≤ 90)

/-- A text cut at each space; a text without one is one piece. -/
def splitSpaces : Text → List Text
  | [] => [[]]
  | c :: cs =>
    if c == ' ' then [] :: splitSpaces cs
    else
      match splitSpaces cs with
      | p :: ps => (c :: p) :: ps
      | [] => [[c]]

/-- Check 1 of R162 on a line without its CR LF: it ends in a space, an asterisk and two digits that equal the XOR of what stands
before the asterisk. The answer is what stands before the asterisk. -/
def checkedBody (t : Text) : Option Text :=
  let body := t.take (t.length - 3)
  if body.getLast? == some ' ' && t.drop (t.length - 3) == '*' :: hexText (checksum body) then some body else none

/-- Check 2 of R162 and the parts of the line: # and a tag of 1 to 3 digits and a space, then verb and tokens. -/
def parseBody (body : Text) : Option BufferedLine :=
  match body with
  | '#' :: rest =>
    let tag := rest.takeWhile isDigit
    match rest.dropWhile isDigit with
    | ' ' :: more =>
      if 1 ≤ tag.length ∧ tag.length ≤ 3 then
        match splitSpaces (more.dropLast) with
        | verb :: tokens => some { verb := verb, ln := { tag := tag, tokens := tokens } }
        | [] => none
      else none
    | _ => none
  | _ => none

/-- A complete line, less its CR LF, that passes both checks (R162). -/
def parseLine (t : Text) : Option BufferedLine := (checkedBody t).bind parseBody

/-! ## The reply queue and the transmitter (R166 to R170, R181, R182) -/

/-- A reply of an execution waits in the reply queue (R165). -/
def LinkPort.executionReplyWaits (p : LinkPort) : Bool := p.replies.any fun r => !r.full

/-- A reply joins the reply queue (R165, R169). -/
def State.reply (s : State) (r : Reply) : State := { s with link := { s.link with replies := s.link.replies ++ [r] } }

/-- A line closed with the flags, the checksum and CR LF (Layouts). -/
def State.closeLine (s : State) (parts : List Text) : Text :=
  let body := joinText ' ' (parts ++ [s.flagField]) ++ [' ']
  body ++ '*' :: hexText (checksum body) ++ [carriageReturn, lineFeed]

/-- The elements of a reply line before its flags (R166). -/
def Reply.parts (r : Reply) : List Text :=
  ('#' :: r.tag) ::
    match r.form with
    | .ok => "OK".toList :: r.fields.map OutField.text
    | .clamped fs =>
      "OK~".toList :: (fieldText "CLAMP" (joinText ',' (fs.map fun f => f.word.toList))).text :: r.fields.map OutField.text
    | .refused x => ["NO".toList, x.word.toList]

/-- The elements of a notice line before its flags, with LOST=1 where the overflow mark was set (R179, R182). -/
def Notice.parts (x : Notice) (lost : Bool) : List Text :=
  let k := x.kind.render
  ('!' :: x.kind.cls.word.toList) :: k.1.toList :: k.2.map OutField.text ++ (if lost then ["LOST=1".toList] else []) ++
    [(fieldNat "T" x.time.toNat).text]

/-- Thousandths of a bit time that a text takes: ten bits a character (R161). -/
def airTime (t : Text) : Nat := t.length * 10 * 1000

/-- The transmitter begins to send a line formed from these elements; flags and checksum are formed now (R168, R170). -/
def State.beginSending (s : State) (parts : List Text) : State :=
  let t := s.closeLine parts
  { s with link := { s.link with tx := some { text := t, carriesZ := s.link.firstLine, left := airTime t } } }

/-- The highest-ranked class whose queue is not empty (R181). -/
def NoticeUnit.firstWaiting (n : NoticeUnit) : Option NoticeClass :=
  [NoticeClass.safety, .motion, .weather, .line].find? fun c => !(n.get c).queue.isEmpty

/-- The Notice Unit hands over the oldest notice of the first class that has one, and its overflow mark is cleared (R181, R182). -/
def State.sendNotice (s : State) : State :=
  match s.notices.firstWaiting with
  | none => s
  | some c =>
    let q := s.notices.get c
    match q.queue with
    | [] => s
    | x :: rest =>
      { s with notices := s.notices.put c { q with queue := rest, overflow := false } }.beginSending (x.parts q.overflow)

/-- An idle transmitter chooses its next line: the oldest reply, else a notice (R170). -/
def State.serveTransmitter (s : State) : State :=
  if s.link.tx.isSome then s
  else
    match s.link.replies with
    | r :: rest => { s with link := { s.link with replies := rest } }.beginSending r.parts
    | [] => s.sendNotice

/-- The line on TXD ends: the transmitter falls idle, and a line that carried Z clears the first-line flag (R168, R170). -/
def State.endLine (s : State) : State :=
  match s.link.tx with
  | none => s
  | some t =>
    { s with link := { s.link with tx := none, firstLine := s.link.firstLine && !t.carriesZ } }

/-! ## Link supervision (R171 to R173) -/

/-- The link-lost flag is set with a cause: the timer stops, LINK_LOST is queued and LINK posted to every configured mover (R173). -/
def State.loseLink (s : State) (c : LinkCause) : State :=
  let s := s.unpost .supervisionTimerExpiry
  let s := { s with link := { s.link with sup := { s.link.sup with lost := some c, timer := none } } }.raise (.linkLost c)
  s.postEach s.configuredMovers fun m => .holdReasonAddition m .link

/-- The supervision timer starts with UP (R171). -/
def State.restartSupervision (s : State) : State :=
  let s := s.unpost .supervisionTimerExpiry
  { s with link := { s.link with sup := { s.link.sup with timer := s.link.sup.up } } }

/-- Supervision observes the arrival of a well-formed line (R171, R172). The time since the last restart is UP less what the timer
has left. -/
def State.observeArrival (s : State) (verb : Text) : State :=
  match s.link.sup.timer with
  | none => s
  | some left =>
    let low := s.link.sup.low.getD 0
    if low = 0 then s.restartSupervision
    else if verb != "BEAT".toList then s
    else if s.link.sup.up.getD 0 - left < low then s.loseLink .early
    else s.restartSupervision

/-! ## The receiver and the input buffer (R162 to R164) -/

/-- The link error count rises by 1 and stops at its limit (R163). -/
def State.countDamaged (s : State) : State :=
  { s with link := { s.link with errors := min (s.link.errors + 1) Config.linkErrorLimit } }

/-- A well-formed line joins the input buffer, or is answered FULL, or is discarded and counted (R164). -/
def State.bufferLine (s : State) (b : BufferedLine) : State :=
  if s.link.inputBuffer.length < Config.inputBufferSize then
    { s with link := { s.link with inputBuffer := s.link.inputBuffer ++ [b] } }
  else if (s.link.replies.filter Reply.full).length < Config.fullReplyLimit then
    s.reply { tag := b.ln.tag, form := .refused .full, fields := [], full := true }
  else s.countDamaged

/-- A complete line, less its CR LF, is checked (R162): counted as damaged, or observed and buffered. -/
def State.lineArrives (s : State) (t : Text) : State :=
  match parseLine t with
  | none => s.countDamaged
  | some b => (s.observeArrival b.verb).bufferLine b

/-- The receiver's state replaced. -/
def State.setReceiver (s : State) (r : Receiver) : State := { s with link := { s.link with receiver := r } }

/-- A character within a line that is neither # nor the LF of a CR LF (R162): it marks the line damaged, or joins it. -/
def State.joinLine (s : State) (t : Text) (damaged : Bool) (c : Char) (good : Bool) : State :=
  if damaged || !good || Config.lineLimit ≤ t.length || !(printable c || c == carriageReturn) then
    s.setReceiver (.within t true (good && c == carriageReturn))
  else s.setReceiver (.within (t ++ [c]) false (c == carriageReturn))

/-- The receiver takes a character (R162). A character with a bad stop bit is taken for no #, CR or LF (DEDUCED, log entry 9). A # within a
line begins a new one also where it is the 201st character or the line is marked damaged (DEDUCED, log entry 55). -/
def State.receiveChar (s : State) (x : RxChar) : State :=
  let c := octetChar x.octet
  match s.link.receiver with
  | .between counted =>
    if x.goodStop && c == '#' then s.setReceiver (.within ['#'] false false)
    else if counted then s
    else s.countDamaged.setReceiver (.between true)
  | .within t damaged cr =>
    if x.goodStop && c == '#' then s.countDamaged.setReceiver (.within ['#'] false false)
    else if x.goodStop && c == lineFeed && cr then
      let s := s.setReceiver (.between false)
      if damaged || Config.lineLimit ≤ t.length then s.countDamaged else s.lineArrives t.dropLast
    else s.joinLine t (damaged || cr) c x.goodStop

/-! ## Outcomes -/

/-- A command's effect while RESET is high, with the transmitter served after it (DEDUCED, log entry 14); while RESET is low the part stays as it is
(R161, R178). -/
def State.whileRunning (s : State) (f : State → State) : Host.Outcome State Fault Refusal :=
  if s.pins.resetLow then .next s else .next (f s).serveTransmitter

end Sys2Proof.Machine
end

