-- ==== Sys2Proof/Machine/Profile.lean ====
section
/-! DEFINITION. The profile step (03): stage 7 of the mover update, in integer arithmetic in µm, µm/s and ms. -/

namespace Sys2Proof.Machine

/-- One bit of the integer square root after another, from bit k − 1 down. -/
def isqrtBits : Nat → Nat → Nat → Nat
  | 0, _, r => r
  | k + 1, n, r => isqrtBits k n (if (r + 2 ^ k) * (r + 2 ^ k) ≤ n then r + 2 ^ k else r)

/-- isqrt: the floor of the square root (00_scope, Units and Numbers). -/
def isqrt (n : Nat) : Nat := isqrtBits (Nat.log2 n / 2 + 1) n 0

/-- v_brake (R68): v_end in µm/s, d in mm/s², the distance in µm. -/
def brakingVelocity (vEnd d dist : Nat) : Nat := isqrt (vEnd * vEnd + 2000 * d * dist)

/-- v1 of the velocity step (R69), with a × T and d × T given. -/
def velocityStep (v vLim aT dT : Nat) : Nat := if v ≤ vLim then min (v + aT) vLim else max (v - dT) vLim

/-- The update period T of a mover: the period of the line of its tracks (R5). -/
def State.updatePeriod (s : State) (m : MoverNo) : Nat :=
  match (s.mv m).cfg.tracks.head?.bind s.stn with
  | some x =>
    match (s.line x.line).record with
    | some r => r.per
    | none => 0
  | none => 0

/-- The refused boundary nearest to p of those that lie between p and the target (R62). -/
def nearestBoundary (d : Dir) (p target : Int) (bs : List Int) : Option Int :=
  (bs.filter fun b => decide (0 ≤ d.sign * (b - p)) && decide (0 < d.sign * (target - b))).foldl
    (fun best b =>
      match best with
      | none => some b
      | some c => if d.sign * (b - p) < d.sign * (c - p) then some b else some c)
    none

/-- v_end before it is capped (R64): the lower of the two speed limits where the mover may blend into its look-ahead, else 0. -/
def State.blendSpeed (s : State) (m : MoverNo) (d : Dir) (target : Int) (vCur : Nat) : Nat :=
  let x := s.mv m
  match x.lookahead with
  | some g =>
    match g.kind with
    | .move next vNext _ _ =>
      if 0 < d.sign * (x.targetUsed next - target) && s.needsHeld m x.lookaheadPath then min vCur vNext * 1000 else 0
    | _ => 0
  | none => 0

/-- The percentage of its speed the mover may use in the wind: w for an EXPOSED mover, 100 for a SHELTERED one (R66, R129). -/
def State.windPercent (s : State) (m : MoverNo) : Nat :=
  match (s.mv m).cfg.cls with
  | .exposed => s.wx.derate
  | .sheltered => 100

/-- The speed cap of an executing MOVE in RUNNING, stages 1 to 3 (R66). -/
def State.speedCap (s : State) (m : MoverNo) (vCur : Nat) : Nat :=
  let capped := min (vCur * 1000) (s.powerSpeed m) * s.windPercent m / 100
  if (s.mv m).skewWarn then capped / 2 else capped

/-- What steps 2 to 7 of R58 form for an executing MOVE. -/
structure ProfileFigures where
  stop : Int
  atTarget : Bool
  dist : Nat
  vEnd : Nat
  vBrake : Nat
  v1 : Nat
  vNew : Nat
  advance : Nat
  residue : Nat
deriving DecidableEq, Repr

/-- The position step (R70): Δ and the new residue. -/
def positionStep (vNew period residue : Nat) : Nat × Nat :=
  ((vNew * period + residue) / 1000, (vNew * period + residue) % 1000)

/-- The figures of an update from the stop point, the end velocity and the cap (R68 to R70). -/
def profileFigures (x : Mover) (stop : Int) (atTarget : Bool) (vEnd vLim a d period : Nat) : ProfileFigures :=
  let dist := (stop - x.p).natAbs
  let vEnd := min vEnd vLim
  let vBrake := brakingVelocity vEnd d dist
  let v1 := velocityStep x.v vLim (a * period) (d * period)
  let vNew := min v1 vBrake
  let step := positionStep vNew period x.residue
  { stop := stop, atTarget := atTarget, dist := dist, vEnd := vEnd, vBrake := vBrake, v1 := v1, vNew := vNew, advance := step.1,
    residue := step.2 }

/-- The executing segment's execution part changed by f. -/
def Mover.modPart (mv : Mover) (f : ExecPart → ExecPart) : Mover :=
  { mv with exec := mv.exec.map fun e => { e with part := f e.part } }

/-- The stop mark and the derated mark are set where the update sets them; neither is cleared here (R65, R67). -/
def State.markSegment (s : State) (m : MoverNo) (setStop setDerated : Bool) : State :=
  s.modMv m fun x => x.modPart fun q => { q with stopMark := q.stopMark || setStop, derated := q.derated || setDerated }

/-- The arrival decision in RUNNING (R71 to R73): the segment goes on, completes at its target, or is held at a boundary. -/
def State.arrive (s : State) (m : MoverNo) (dir : Dir) (f : ProfileFigures) : State :=
  if f.advance < f.dist then
    s.modMv m fun x => { x with p := x.p + dir.sign * f.advance, v := f.vNew, residue := f.residue }
  else if f.atTarget then
    (s.modMv m fun x => { x with p := f.stop, v := min f.vNew f.vEnd, residue := 0 }).completeSegment m .arrived
  else
    let s := s.modMv m fun x =>
      { x with p := f.stop, v := 0, residue := 0, holdSet := x.holdSet.add (.clearance (s.waitingOn m)) }
    (s.pauseSegmentTimers m).holdWithBrakes m

/-- The figures of an executing MOVE in RUNNING under a speed cap (R58 steps 2 to 7, R62, R64). -/
def State.runningFigures (s : State) (m : MoverNo) (part : ExecPart) (dest : Int) (vCur a d : Nat) (dir : Dir) (vLim : Nat) :
    ProfileFigures :=
  let x := s.mv m
  let target := x.targetUsed dest
  let boundary := nearestBoundary dir x.p target (s.stopPoints m dir)
  let atTarget := boundary.isNone
  let blend := if atTarget && !part.stopMark then s.blendSpeed m dir target vCur else 0
  profileFigures x (boundary.getD target) atTarget blend vLim a d (s.updatePeriod m)

/-- The update sets the stop mark (R65). -/
def ProfileFigures.commitsToStop (f : ProfileFigures) : Bool := f.atTarget && f.vEnd == 0 && decide (f.vBrake < f.v1)

/-- The profile step of an executing MOVE in RUNNING (R58, R62, R64 to R73). -/
def State.profileRunning (s : State) (m : MoverNo) : State :=
  match (s.mv m).exec with
  | none => s
  | some e =>
    match e.seg.kind, e.part.dir with
    | .move dest vCur a d, some dir =>
      let f := s.runningFigures m e.part dest vCur a d dir (s.speedCap m vCur)
      let uncapped := s.runningFigures m e.part dest vCur a d dir (vCur * 1000)
      (s.markSegment m f.commitsToStop (decide (f.vNew < uncapped.vNew))).arrive m dir f
    | _, _ => s

/-- The profile step in HOLDING before the brake order, for an executing MOVE (R63, R74): the mover with its new p, v, residue. -/
def State.holdingStep (s : State) (m : MoverNo) : Mover :=
  let x := s.mv m
  match x.exec with
  | none => { x with v := 0, residue := 0 }
  | some e =>
    match e.seg.kind, e.part.dir with
    | .move dest _ a d, some dir =>
      let target := x.targetUsed dest
      let limit := (nearestBoundary dir x.p target (s.stopPoints m dir)).getD target
      let f := profileFigures x limit false 0 0 a d (s.updatePeriod m)
      let p := if f.advance < f.dist then x.p + dir.sign * f.advance else limit
      let v := if f.advance < f.dist then f.vNew else 0
      { x with p := p, v := v, residue := if v = 0 then 0 else f.residue }
    | _, _ => { x with v := 0, residue := 0 }

/-- The profile step (R58): in RUNNING, and in HOLDING, where the brake order follows at v = 0 (R15, R74). -/
def State.profileStep (s : State) (m : MoverNo) : State :=
  match (s.mv m).state with
  | .running => s.profileRunning m
  | .holding =>
    if (s.mv m).brakeOrdered then s
    else
      let s := s.setMv m (s.holdingStep m)
      if (s.mv m).v = 0 then s.holdWithBrakes m else s
  | _ => s

end Sys2Proof.Machine
end

