-- ==== Sys2Proof/Machine/Update.lean ====
section
/-! DEFINITION. The mover update (R6) in its eight stages. Stage 1 is State.formTrim and stage 7 State.profileStep. -/

namespace Sys2Proof.Machine

/-- Stage 2: the first update after which every track has a valid report sets p and clears the position-unset mark (R8), with the
rule changes and opening tests of R120 and R122. -/
def State.positionStage (s : State) (m : MoverNo) : State :=
  if !(s.mv m).positionUnset then s
  else
    match s.measured m with
    | none => s
    | some xs => ((s.modMv m fun x => x.initPosition (meanOf xs)).resetOpenRules m).openingTests m

/-- FEEDBACK is checked in this state (R24). -/
def MoverState.checksFeedback : MoverState → Bool
  | .ending | .fault => true
  | st => st.recordsHold

/-- The FEEDBACK check fails (R24). -/
def State.feedbackFails (s : State) (m : MoverNo) : Bool := (s.mv m).state.checksFeedback && s.trackLost m

/-- The DRIVE check fails: a last report TRIPPED, or DISABLED in any state but IDLE (R24). -/
def State.driveFails (s : State) (m : MoverNo) : Bool :=
  (s.mv m).cfg.tracks.any fun st =>
    match s.driveReport st with
    | some (_, .tripped, _) => true
    | some (_, .disabled, _) => (s.mv m).state != .idle
    | _ => false

/-- A mean beyond the travel and its margin (R24). -/
def MoverRec.beyondMargin (r : MoverRec) (mean : Int) : Bool :=
  decide (mean < ((r.lo : Int) - r.ovt) * 1000) || decide (((r.hi : Int) + r.ovt) * 1000 < mean)

/-- The OVERTRAVEL check fails (R24). -/
def State.overtravelFails (s : State) (m : MoverNo) : Bool :=
  !(s.mv m).positionUnset && (s.mv m).mean.any (s.mv m).cfg.beyondMargin

/-- The LOCK check fails: JAMMED, or ENGAGED in RELEASING, RUNNING or HOLDING with the unlocked mark set (R24). -/
def State.lockFails (s : State) (m : MoverNo) : Bool :=
  match s.lockReport m with
  | some .jammed => true
  | some .engaged =>
    (s.mv m).unlocked &&
      match (s.mv m).state with
      | .releasing | .running | .holding => true
      | _ => false
  | _ => false

/-- The kinds failing at stage 3, in the table's order (R24). -/
def State.failingKinds (s : State) (m : MoverNo) : List FaultKind :=
  (if s.feedbackFails m then [.feedback] else []) ++ (if s.driveFails m then [.drive] else []) ++
    (if s.overtravelFails m then [.overtravel] else []) ++ (if s.lockFails m then [.lock] else [])

/-- Stage 3: the fault checks (R24, R26). -/
def State.faultStage (s : State) (m : MoverNo) : State :=
  match s.failingKinds m with
  | [] => s
  | k :: ks =>
    if (s.mv m).state == .fault then
      s.modMv m fun x => { x with fault := x.fault.map fun f => (k :: ks).foldl FaultRec.note f }
    else s.enterFault m k ks

/-- The confirmation of UNLOCKING (R10). -/
def State.confirmUnlocking (s : State) (m : MoverNo) : State :=
  if s.lockReport m == some .withdrawn then (s.cancelTlock m).enterReleasing m else s

/-- The confirmation of RELEASING (R11). -/
def State.confirmReleasing (s : State) (m : MoverNo) : State :=
  if s.brakesReleased m then (s.cancelTbrk m).runningEntry m else s

/-- The confirmation of HOLDING with the brake order given (R15, R18). The release and its arbitration come before the entry to HELD or
IDLE, whose opening tests may wake movers with new requests; R100 lets the two be taken in either order (DESIGN CHOICE, log
entry 57). -/
def State.confirmHolding (s : State) (m : MoverNo) : State :=
  if s.brakesApplied m then
    let stop := (s.mv m).stopInProgress
    let s := (s.cancelTbrk m).releaseGrant m
    if stop then s.finishStop m else s.enterHeld m
  else s

/-- The confirmations of ENDING; each stays confirmed once seen, and its timer is cancelled (R19, R25). -/
def State.confirmEnding (s : State) (m : MoverNo) : State :=
  let brakes := (s.mv m).endBrakeSeen || s.brakesApplied m
  let lock := (s.mv m).endLockSeen || !(s.mv m).endLock || s.lockReport m == some .engaged
  let s := if brakes then s.cancelTbrk m else s
  let s := if lock then s.cancelTlock m else s
  let s := s.modMv m fun x => { x with endBrakeSeen := brakes, endLockSeen := lock }
  if brakes && lock then s.enterIdle m else s

/-- The two confirmations of an emergency stop (R21): every track READY, then every track APPLIED. -/
def State.confirmStopping (s : State) (m : MoverNo) : State :=
  let ready := (s.mv m).brakeOrdered || s.tracksReport m fun d _ => d == .ready
  let s := (s.modMv m fun x => { x with brakeOrdered := ready }).writeImages m
  if ready && s.brakesApplied m then s.enterStopped m else s

/-- A track with this STATE counts as stopped in the fault stop (R27). -/
def DriveState.countsStopped : DriveState → Bool
  | .ready | .tripped | .disabled => true
  | _ => false

/-- The two confirmations of the fault stop (R27). -/
def State.confirmFaultStop (s : State) (m : MoverNo) : State :=
  if (s.mv m).faultStopComplete then s
  else
    let still := (s.mv m).brakeOrdered || s.tracksReport m fun d _ => d.countsStopped
    let s := (s.modMv m fun x => { x with brakeOrdered := still }).writeImages m
    if still && s.brakesApplied m then s.completeFaultStop m else s

/-- Stage 4: the confirmation that the state waits for (R6). -/
def State.confirmStage (s : State) (m : MoverNo) : State :=
  match (s.mv m).state with
  | .unlocking => s.confirmUnlocking m
  | .releasing => s.confirmReleasing m
  | .holding => if (s.mv m).brakeOrdered then s.confirmHolding m else s
  | .ending => s.confirmEnding m
  | .stopping => s.confirmStopping m
  | .fault => s.confirmFaultStop m
  | _ => s

/-- The skew trip level, µm (R81). -/
def Mover.tripLevel (mv : Mover) : Int := (if mv.aligning then mv.cfg.skt + mv.cfg.skh else mv.cfg.skt) * 1000

/-- The skew level below which the warning clears and an ALIGN may complete, (SKW − SKH) × 1000 µm (R84, R90). -/
def MoverRec.calmSkew (r : MoverRec) : Int := ((r.skw : Int) - r.skh) * 1000

/-- The skew warning (R84). -/
def State.skewWarning (s : State) (m : MoverNo) (skew : Int) : State :=
  let x := s.mv m
  if !x.skewWarn && decide ((x.cfg.skw : Int) * 1000 ≤ skew) then
    (s.modMv m fun x => { x with skewWarn := true }).raise (.skewWarn m (skew.tdiv 1000))
  else if x.skewWarn && decide (skew < x.cfg.calmSkew) then s.modMv m fun x => { x with skewWarn := false }
  else s

/-- The completion test of an executing ALIGN passes (R90). -/
def Mover.alignDone (mv : Mover) : Bool :=
  mv.aligning && mv.state == .running &&
    match mv.trim with
    | some t => decide (t.skew ≤ mv.cfg.calmSkew) && t.errors.all fun e => decide (e.natAbs ≤ mv.cfg.skh * 1000)
    | none => false

/-- The peak skew of a segment is raised to the skew of an update (R36, R85). -/
def ExecPart.raisePeak (q : ExecPart) (skew : Int) : ExecPart := { q with peakSkew := max q.peakSkew skew }

/-- Stage 5, in RUNNING and HOLDING: trip, follow, warning, peak skew, ALIGN completion (R81). `p` is the commanded position at the
start of the update (R80). The second component says that stages 6 and 7 are not made. The peak skew is raised in HOLDING too, before
the segment's first RUNNING entry as after it (R36, R85; DEDUCED, log entry 34). -/
def State.superviseStage (s : State) (m : MoverNo) (p : Int) : State × Bool :=
  let x := s.mv m
  match x.state, x.trim with
  | .running, some t | .holding, some t =>
    let trips := decide (x.tripLevel ≤ t.skew)
    let lags := !x.aligning && decide ((x.cfg.fol : Int) * 1000 < |p - t.mean|)
    if trips then (s.enterFault m .skew (if lags then [.follow] else []), true)
    else if lags then (s.enterFault m .follow [], true)
    else
      let s := s.skewWarning m t.skew
      let s := s.modMv m fun x => x.modPart fun q => q.raisePeak t.skew
      if (s.mv m).alignDone then (s.completeSegment m .aligned, true) else (s, false)
  | _, _ => (s, false)

/-- Stage 6, in RUNNING and HOLDING: the mover leaves the lists of rules it no longer needs, and in RUNNING makes its requests
(R116, R118). The stop points are formed where the profile reads them (R117). -/
def State.clearanceStage (s : State) (m : MoverNo) : State :=
  match (s.mv m).state with
  | .running =>
    let s := (s.staleWaits m).foldl (fun s c => s.leaveRule c m) s
    let s := s.requestPath m (s.mv m).execPath
    s.requestPath m (s.mv m).lookaheadPath
  | .holding =>
    let stale := s.staleWaits m
    (stale.foldl (fun s c => s.leaveRule c m) s).removeReasons m [.clearance stale]
  | _ => s

/-- The mover update (R6). The update that confirms the brakes of RELEASING makes no profile step: the profile's first acceleration
follows at the next update (R88; DEDUCED, log entry 7). The update that completes an ALIGN writes images with the corrections its
stage 1 stored, VCREEP their bound, also where the next segment is taken in it (R90 and R86 before R87; DEDUCED, log entry 37). -/
def State.moverUpdate (s : State) (m : MoverNo) : State :=
  let p := (s.mv m).p
  let s := (s.formTrim m).positionStage m
  let was := (s.mv m).state
  let s := s.faultStage m
  if was != .fault && (s.mv m).state == .fault then s.writeImages m
  else
    let s := s.confirmStage m
    let r := s.superviseStage m p
    if r.2 then r.1.writeImages m
    else
      let s := r.1.clearanceStage m
      let s := if was == .releasing then s else s.profileStep m
      s.writeImages m

end Sys2Proof.Machine
end

