-- ==== Sys2Proof/Machine/Operands.lean ====
section
/-! DEFINITION. The fields of a command line (09, Layouts and R165): their forms, and the FORMAT and RANGE tests of every verb,
FORMAT before RANGE. Each `parse` answers the operands of its verb, or the reason of the first test that failed. -/

namespace Sys2Proof.Machine

/-! ## Fields and forms -/

/-- A field of a command line as written. -/
structure Field where
  name : Text
  value : Text
deriving DecidableEq, Repr

/-- The answer of tests: a value, or the reason of the first test that failed (R167). -/
abbrev Test := Except Reason

/-- Upper-case letters and digits, beginning with a letter. -/
def isFieldName : Text → Bool
  | [] => false
  | c :: cs => isUpper c && cs.all fun d => isUpper d || isDigit d

/-- A token in the field form: a name, an equals sign, a value that is not empty (R165). -/
def parseField (t : Text) : Option Field :=
  let name := t.takeWhile fun c => c != '='
  match t.dropWhile fun c => c != '=' with
  | _ :: v :: vs => if isFieldName name then some { name := name, value := v :: vs } else none
  | _ => none

/-- The tokens after the verb as fields; none where one is not of the field form (R165). -/
def parseFields (ts : List Text) : Option (List Field) := ts.mapM parseField

/-- The number that decimal digits write. -/
def digitsValue (t : Text) : Nat := t.foldl (fun n c => 10 * n + (c.toNat - 48)) 0

/-- 1 to `limit` decimal digits. -/
def parseDigits (limit : Nat) (t : Text) : Option Nat :=
  if !t.isEmpty && decide (t.length ≤ limit) && t.all isDigit then some (digitsValue t) else none

/-- A decimal value: an optional minus sign and 1 to `limit` digits. -/
def decimalUpTo (limit : Nat) : Text → Option Int
  | '-' :: t => (parseDigits limit t).map fun n => -(n : Int)
  | t => (parseDigits limit t).map fun n => (n : Int)

/-- A decimal value of up to ten digits (Layouts). -/
def decimal (t : Text) : Option Int := decimalUpTo 10 t

/-- A decimal value of up to nine digits, as STAGE and SETPLAN take it (R38). -/
def shortDecimal (t : Text) : Option Int := decimalUpTo 9 t

/-- A text cut at each comma. -/
def splitCommas : Text → List Text
  | [] => [[]]
  | c :: cs =>
    if c == ',' then [] :: splitCommas cs
    else
      match splitCommas cs with
      | p :: ps => (c :: p) :: ps
      | [] => [[c]]

/-- A list of decimal values, at most `limit` of them. -/
def decimalList (limit : Nat) (t : Text) : Option (List Int) :=
  let parts := splitCommas t
  if parts.length ≤ limit then parts.mapM decimal else none

/-- A word value: upper-case letters, digits and underscores, beginning with a letter. -/
def word : Text → Option Text
  | [] => none
  | c :: cs => if isUpper c && cs.all fun d => isUpper d || isDigit d || d == '_' then some (c :: cs) else none

/-- A word that must be one of a list (R38 KIND, R104 MODE, R157 OP). -/
def wordOf {α : Type} (ws : List (String × α)) (t : Text) : Option α :=
  (ws.find? fun w => w.1.toList == t).map Prod.snd

/-- A mover number or a word (R17, R20, R136). -/
def decimalOrWord (t : Text) : Option (Int ⊕ Text) :=
  match decimal t with
  | some x => some (.inl x)
  | none => (word t).map .inr

/-! ## Tests -/

/-- The test fails with a reason unless the condition holds. -/
def require (c : Bool) (r : Reason) : Test Unit := if c then .ok () else .error r

/-- The tests a rule lists, each a failing condition with its reason: the first that fails gives the refusal (R167). -/
def firstFailing : List (Bool × Reason) → Test Unit
  | [] => .ok ()
  | (c, r) :: ts => if c then .error r else firstFailing ts

/-- The value of a named field, as written. -/
def fieldValue (fs : List Field) (k : String) : Option Text :=
  (fs.find? fun f => f.name == k.toList).map Field.value

/-- A field of that name is present. -/
def present (fs : List Field) (k : String) : Bool := (fieldValue fs k).isSome

/-- FORMAT unless every field name is one of the verb's and none appears twice (R165). -/
def checkNames (names : List String) (fs : List Field) : Test Unit :=
  require
    ((fs.all fun f => names.any fun n => n.toList == f.name) &&
      names.all fun n => decide ((fs.filter fun f => f.name == n.toList).length ≤ 1))
    .format

/-- A field that must be present and of its form; else FORMAT. -/
def required {α : Type} (fs : List Field) (k : String) (form : Text → Option α) : Test α :=
  match (fieldValue fs k).bind form with
  | some x => .ok x
  | none => .error .format

/-- A field that may be omitted; FORMAT where it is present and not of its form. -/
def optionalField {α : Type} (fs : List Field) (k : String) (form : Text → Option α) : Test (Option α) :=
  match fieldValue fs k with
  | none => .ok none
  | some t =>
    match form t with
    | some x => .ok (some x)
    | none => .error .format

/-- RANGE unless lo ≤ x ≤ hi. -/
def natIn (lo hi : Nat) (x : Int) : Test Nat :=
  if (lo : Int) ≤ x ∧ x ≤ hi then .ok x.toNat else .error .range

/-- RANGE unless x is an index below n: a mover, a station, a rule. -/
def indexBelow (n : Nat) (x : Int) : Test (Fin n) :=
  if h : 0 ≤ x ∧ x.toNat < n then .ok ⟨x.toNat, h.2⟩ else .error .range

/-- M in 0..7. -/
def moverNumber (x : Int) : Test MoverNo := indexBelow 8 x

/-- A station number in 0..23. -/
def stationNumber (x : Int) : Test StationNo := indexBelow 24 x

/-- A rule number in 0..15. -/
def ruleNumber (x : Int) : Test RuleNo := indexBelow 16 x

/-- 0 or 1. -/
def switchValue (x : Int) : Test Bool :=
  if x = 0 then .ok false else if x = 1 then .ok true else .error .range

/-- An omitted value stays omitted; a written one is tested. -/
def whenPresent {α β : Type} (f : α → Test β) : Option α → Test (Option β)
  | none => .ok none
  | some x => (f x).map some

/-- A word that must name one of a list; else RANGE (R2 CLASS, R143 L, R146 LINE and TYPE). -/
def wordInRange {α : Type} (ws : List (String × α)) (t : Text) : Test α :=
  match wordOf ws t with
  | some x => .ok x
  | none => .error .range

/-- A and B. -/
def lineWords : List (String × LineId) := [("A", .A), ("B", .B)]

/-! ## Verbs without fields, and verbs that name a mover -/

/-- A verb that takes no field (POOLSTAT, POWERSTAT, WXSTAT, BEAT, LINKSTAT, CLEARALL). -/
def parseNothing (fs : List Field) : Test Unit := checkNames [] fs

/-- M=n (GO, RESUME, STOP, ACKFAULT, MOVERSTAT, FLUSH). ALL or another word is no decimal here: FORMAT (DEDUCED, log entry 10). -/
def parseMover (fs : List Field) : Test MoverNo := do
  checkNames ["M"] fs
  let m ← required fs "M" decimal
  moverNumber m

/-- The mover of M=n, or none for M=ALL; RANGE for another number or word. -/
def moverOrAll : Int ⊕ Text → Test (Option MoverNo)
  | .inl x => (moverNumber x).map some
  | .inr w => if w == "ALL".toList then .ok none else .error .range

/-- M=n or M=ALL (HOLD, ESTOP); none stands for ALL. -/
def parseMoverOrAll (fs : List Field) : Test (Option MoverNo) := do
  checkNames ["M"] fs
  let m ← required fs "M" decimalOrWord
  moverOrAll m

/-! ## DEFMOVER (R2) -/

/-- The field names of the table of R2. -/
def defmoverNames : List String :=
  ["M", "TRACKS", "OFFS", "LO", "HI", "OVT", "VMAX", "AMAX", "DMAX", "VCREEP", "PRATED", "VRATED", "PRIO", "CLASS", "LOCKST",
   "SKW", "SKT", "SKH", "FOL", "KC", "TCL", "TBRK", "TLOCK", "TSTOP", "TALIGN", "CAP", "LOW"]

/-- RANGE unless −100,000 ≤ x ≤ 100,000. -/
def offsetInRange (x : Int) : Test Int := if -100000 ≤ x ∧ x ≤ 100000 then .ok x else .error .range

/-- The fields of DEFMOVER (R2): all FORMAT tests, then all RANGE tests. -/
def parseDefmover (fs : List Field) : Test (MoverNo × MoverRec) := do
  checkNames defmoverNames fs
  let m ← required fs "M" decimal
  let tracks ← required fs "TRACKS" (decimalList 4)
  let offs ← optionalField fs "OFFS" (decimalList 4)
  let lo ← required fs "LO" decimal
  let hi ← required fs "HI" decimal
  let ovt ← optionalField fs "OVT" decimal
  let vmax ← required fs "VMAX" decimal
  let amax ← required fs "AMAX" decimal
  let dmax ← required fs "DMAX" decimal
  let vcreep ← required fs "VCREEP" decimal
  let prated ← required fs "PRATED" decimal
  let vrated ← required fs "VRATED" decimal
  let prio ← optionalField fs "PRIO" decimal
  let cls ← required fs "CLASS" word
  let lockst ← optionalField fs "LOCKST" decimal
  let skw ← required fs "SKW" decimal
  let skt ← required fs "SKT" decimal
  let skh ← required fs "SKH" decimal
  let fol ← required fs "FOL" decimal
  let kc ← required fs "KC" decimal
  let tcl ← required fs "TCL" decimal
  let tbrk ← optionalField fs "TBRK" decimal
  let tlock ← optionalField fs "TLOCK" decimal
  let tstop ← optionalField fs "TSTOP" decimal
  let talign ← optionalField fs "TALIGN" decimal
  let cap ← optionalField fs "CAP" decimal
  let low ← optionalField fs "LOW" decimal
  require (offs.all fun o => o.length == tracks.length) .format
  let m ← moverNumber m
  let tracks ← tracks.mapM stationNumber
  let offs ← (offs.getD (List.replicate tracks.length 0)).mapM offsetInRange
  let lo ← natIn 0 400000 lo
  let hi ← natIn 0 400000 hi
  require (decide (lo < hi)) .range
  let ovt ← natIn 0 1000 (ovt.getD 0)
  let vmax ← natIn 1 1000 vmax
  let amax ← natIn 1 500 amax
  let dmax ← natIn 1 500 dmax
  let vcreep ← natIn 1 vmax vcreep
  let prated ← natIn 1 5000 prated
  let vrated ← natIn 1 1000 vrated
  let prio ← natIn 0 7 (prio.getD 7)
  let cls ← wordInRange [("EXPOSED", MoverClass.exposed), ("SHELTERED", .sheltered)] cls
  let lockst ← whenPresent stationNumber lockst
  let skw ← natIn 1 2000 skw
  let skt ← natIn (skw + 1) 5000 skt
  let skh ← natIn 1 skw skh
  let fol ← natIn 1 5000 fol
  let kc ← natIn 0 255 kc
  let tcl ← natIn 0 50 tcl
  let tbrk ← natIn 100 10000 (tbrk.getD 2000)
  let tlock ← natIn 1000 60000 (tlock.getD 20000)
  let tstop ← natIn 1000 60000 (tstop.getD 15000)
  let talign ← natIn 1000 600000 (talign.getD 120000)
  let cap ← natIn 1 64 (cap.getD 16)
  let low ← natIn 0 cap (low.getD 1)
  return (m,
    { tracks := tracks, offs := offs, lo := lo, hi := hi, ovt := ovt, vmax := vmax, amax := amax, dmax := dmax, vcreep := vcreep,
      prated := prated, vrated := vrated, prio := prio, cls := cls, lockst := lockst, skw := skw, skt := skt, skh := skh,
      fol := fol, kc := kc, tcl := tcl, tbrk := tbrk, tlock := tlock, tstop := tstop, talign := talign, cap := cap, low := low })

/-! ## STAGE and SETPLAN (R38, R39, R135) -/

/-- KIND of a STAGE line. -/
inductive KindWord
  | move
  | dwell
  | align
deriving DecidableEq, Repr

/-- The fields a kind takes (R38). -/
def KindWord.names : KindWord → List String
  | .move => ["M", "TAG", "KIND", "LOCK", "TO", "V", "A", "D"]
  | .dwell => ["M", "TAG", "KIND", "LOCK", "T"]
  | .align => ["M", "TAG", "KIND", "LOCK"]

/-- RANGE where a written V, A, D or T is less than 1 (R39). -/
def atLeastOne (x : Int) : Test Nat := if 1 ≤ x then .ok x.toNat else .error .range

/-- The motion of a kind from its fields (R38, R39). -/
def parseKind (fs : List Field) : KindWord → Test MotionKind
  | .move => do
    let dest ← required fs "TO" shortDecimal
    let v ← optionalField fs "V" shortDecimal
    let a ← optionalField fs "A" shortDecimal
    let d ← optionalField fs "D" shortDecimal
    let v ← whenPresent atLeastOne v
    let a ← whenPresent atLeastOne a
    let d ← whenPresent atLeastOne d
    return .move dest v a d
  | .dwell => do
    let t ← required fs "T" shortDecimal
    let t ← atLeastOne t
    return .dwell t
  | .align => .ok .align

/-- The fields of STAGE, and of a SETPLAN that sets a plan (R38, R39 test 1). -/
def parseMotion (fs : List Field) : Test (MoverNo × Motion) := do
  let kind ← required fs "KIND" (wordOf [("MOVE", KindWord.move), ("DWELL", .dwell), ("ALIGN", .align)])
  checkNames kind.names fs
  let m ← required fs "M" shortDecimal
  let tag ← required fs "TAG" shortDecimal
  let lock ← optionalField fs "LOCK" shortDecimal
  let kind ← parseKind fs kind
  let m ← moverNumber m
  let tag ← natIn 0 65535 tag
  let lock ← switchValue (lock.getD 0)
  return (m, { tag := tag, kind := kind, lock := lock })

/-- The fields of SETPLAN: a plan, or none for M alone (R135). -/
def parseSetplan (fs : List Field) : Test (MoverNo × Option Motion) :=
  if fs.length == 1 && present fs "M" then do
    let m ← required fs "M" shortDecimal
    let m ← moverNumber m
    return (m, none)
  else do
    let r ← parseMotion fs
    return (r.1, some r.2)

/-- N of LOGREAD, 1..8, default 8 (R51). -/
def parseLogread (fs : List Field) : Test Nat := do
  checkNames ["N"] fs
  let n ← optionalField fs "N" decimal
  natIn 1 8 (n.getD 8)

/-! ## SETPOWER (R104) -/

/-- BUDGET and MODE of SETPOWER, at least one of them. -/
def parseSetpower (fs : List Field) : Test (Option Nat × Option PowerMode) := do
  checkNames ["BUDGET", "MODE"] fs
  require (!fs.isEmpty) .format
  let budget ← optionalField fs "BUDGET" decimal
  let mode ← optionalField fs "MODE" (wordOf [("PRIORITY", PowerMode.priority), ("ROTATE", .rotate)])
  let budget ← whenPresent (natIn 0 65535) budget
  return (budget, mode)

/-! ## DEFRULE and RULESTAT (R110, R111, R124) -/

/-- What DEFRULE gives a rule that it defines. -/
structure RuleArgs where
  g : MoverNo
  zlo : Nat
  zhi : Nat
  k : MoverNo
  rlo : Nat
  rhi : Nat
deriving DecidableEq, Repr

/-- The six fields of DEFRULE besides C. -/
def parseRuleArgs (fs : List Field) : Test RuleArgs := do
  let g ← required fs "G" decimal
  let zlo ← required fs "ZLO" decimal
  let zhi ← required fs "ZHI" decimal
  let k ← required fs "K" decimal
  let rlo ← required fs "RLO" decimal
  let rhi ← required fs "RHI" decimal
  let g ← moverNumber g
  let k ← moverNumber k
  let zlo ← natIn 0 400000 zlo
  let zhi ← natIn 0 400000 zhi
  let rlo ← natIn 0 400000 rlo
  let rhi ← natIn 0 400000 rhi
  require (decide (zlo ≤ zhi) && decide (rlo ≤ rhi)) .range
  return { g := g, zlo := zlo, zhi := zhi, k := k, rlo := rlo, rhi := rhi }

/-- The fields of DEFRULE; none for C alone, a deletion. FORMAT of all fields goes before RANGE of C. -/
def parseDefrule (fs : List Field) : Test (RuleNo × Option RuleArgs) := do
  checkNames ["C", "G", "ZLO", "ZHI", "K", "RLO", "RHI"] fs
  let c ← required fs "C" decimal
  if fs.length == 1 then
    let c ← ruleNumber c
    return (c, none)
  else
    let args ← parseRuleArgs fs
    let c ← ruleNumber c
    return (c, some args)

/-- C of RULESTAT, which may be omitted. -/
def parseRulestat (fs : List Field) : Test (Option RuleNo) := do
  checkNames ["C"] fs
  let c ← optionalField fs "C" decimal
  whenPresent ruleNumber c

/-! ## SETWX and SETTRIG (R127, R136) -/

/-- The fields of SETWX. -/
def parseSetwx (fs : List Field) : Test (List StationNo × WxThresholds) := do
  checkNames ["SRC", "W1", "W2", "GH", "REL"] fs
  let src ← required fs "SRC" (decimalList 2)
  let w1 ← required fs "W1" decimal
  let w2 ← required fs "W2" decimal
  let gh ← required fs "GH" decimal
  let rel ← required fs "REL" decimal
  let src ← src.mapM stationNumber
  let w1 ← natIn 0 999 w1
  let w2 ← natIn 0 999 w2
  let gh ← natIn 0 999 gh
  require (decide (w1 < w2)) .range
  let rel ← natIn 10 3600 rel
  return (src, { w1 := w1, w2 := w2, gh := gh, rel := rel })

/-- The fields of SETTRIG; none stands for ALL. -/
def parseSettrig (fs : List Field) : Test (Option MoverNo × Bool) := do
  checkNames ["M", "MASK"] fs
  let m ← required fs "M" decimalOrWord
  let mask ← required fs "MASK" decimal
  let m ← moverOrAll m
  let mask ← switchValue mask
  return (m, mask)

/-! ## DEFLINE, DEFSTN, SERVICE, LINESTAT, STNSTAT (R143, R146, R157, R159) -/

/-- The fields of DEFLINE; none for L alone, which turns the line OFF. -/
def parseDefline (fs : List Field) : Test (LineId × Option LineSettings) := do
  checkNames ["L", "PER", "TMO", "MISS"] fs
  let l ← required fs "L" some
  let per ← optionalField fs "PER" decimal
  let tmo ← optionalField fs "TMO" decimal
  let miss ← optionalField fs "MISS" decimal
  require (per.isSome || (tmo.isNone && miss.isNone)) .format
  let l ← wordInRange lineWords l
  match per with
  | none => return (l, none)
  | some per =>
    let per ← natIn 10 200 per
    let tmo ← natIn 1 20 (tmo.getD 5)
    let miss ← natIn 1 4 (miss.getD 2)
    return (l, some { per := per, tmo := tmo, miss := miss })

/-- What DEFSTN gives a station that it defines. -/
structure StationArgs where
  line : LineId
  addr : Nat
  type : StationType
deriving DecidableEq, Repr

/-- The words of TYPE. -/
def typeWords : List (String × StationType) := [("DRIVE", .drive), ("LOCK", .lock), ("WEATHER", .weather)]

/-- The fields of DEFSTN; none for ST alone, a deletion. -/
def parseDefstn (fs : List Field) : Test (StationNo × Option StationArgs) := do
  checkNames ["ST", "LINE", "ADDR", "TYPE"] fs
  let st ← required fs "ST" decimal
  if fs.length == 1 then
    let st ← stationNumber st
    return (st, none)
  else
    let line ← required fs "LINE" word
    let addr ← required fs "ADDR" decimal
    let type ← required fs "TYPE" word
    let st ← stationNumber st
    let line ← wordInRange lineWords line
    let addr ← natIn 1 31 addr
    let type ← wordInRange typeWords type
    return (st, some { line := line, addr := addr, type := type })

/-- What SERVICE asks for. -/
structure ServiceArgs where
  station : StationNo
  write : Bool
  par : Nat
  val : Option Int
deriving DecidableEq, Repr

/-- RANGE unless x is a signed 32-bit value. -/
def signed32 (x : Int) : Test Int := if -2147483648 ≤ x ∧ x ≤ 2147483647 then .ok x else .error .range

/-- The fields of SERVICE; VAL stands with WRITE alone. -/
def parseService (fs : List Field) : Test ServiceArgs := do
  checkNames ["ST", "OP", "PAR", "VAL"] fs
  let st ← required fs "ST" decimal
  let write ← required fs "OP" (wordOf [("READ", false), ("WRITE", true)])
  let par ← required fs "PAR" decimal
  let val ← optionalField fs "VAL" decimal
  require (val.isSome == write) .format
  let st ← stationNumber st
  let par ← natIn 0 65535 par
  let val ← whenPresent signed32 val
  return { station := st, write := write, par := par, val := val }

/-- L of LINESTAT. -/
def parseLinestat (fs : List Field) : Test LineId := do
  checkNames ["L"] fs
  let l ← required fs "L" some
  wordInRange lineWords l

/-- ST of STNSTAT. -/
def parseStnstat (fs : List Field) : Test StationNo := do
  checkNames ["ST"] fs
  let st ← required fs "ST" decimal
  stationNumber st

/-! ## SUPERVISE and SETNOTE (R171, R183) -/

/-- UP and LOW of SUPERVISE ON=1, or none for ON=0. -/
def parseSupervise (fs : List Field) : Test (Option (Nat × Nat)) := do
  checkNames ["ON", "UP", "LOW"] fs
  let on ← required fs "ON" decimal
  let up ← optionalField fs "UP" decimal
  let low ← optionalField fs "LOW" decimal
  require (!(on == 1 && up.isNone)) .format
  require (!(on == 0 && (up.isSome || low.isSome))) .format
  let on ← switchValue on
  if on then
    let up ← natIn 100 60000 (up.getD 0)
    let low ← natIn 0 (up - 1) (low.getD 0)
    return some (up, low)
  else return none

/-- The fields of SETNOTE, each of which may be omitted. -/
structure NoteArgs where
  safety : Option Bool
  motion : Option Bool
  weather : Option Bool
  line : Option Bool
  logThreshold : Option Nat
deriving DecidableEq, Repr

/-- The fields of SETNOTE, at least one of them. -/
def parseSetnote (fs : List Field) : Test NoteArgs := do
  checkNames ["SAFETY", "MOTION", "WEATHER", "LINE", "LOGTHR"] fs
  require (!fs.isEmpty) .format
  let safety ← optionalField fs "SAFETY" decimal
  let motion ← optionalField fs "MOTION" decimal
  let weather ← optionalField fs "WEATHER" decimal
  let line ← optionalField fs "LINE" decimal
  let thr ← optionalField fs "LOGTHR" decimal
  let safety ← whenPresent switchValue safety
  let motion ← whenPresent switchValue motion
  let weather ← whenPresent switchValue weather
  let line ← whenPresent switchValue line
  let thr ← whenPresent (natIn 1 256) thr
  return { safety := safety, motion := motion, weather := weather, line := line, logThreshold := thr }

end Sys2Proof.Machine
end

