-- ==== Sys2Proof/Machine/Execute.lean ====
section
/-! DEFINITION. The execution of a command line (R165, R166): when a line is executed, the port's FORMAT test, the reply. -/

namespace Sys2Proof.Machine

/-- What an accepted command answers: the clamped fields, and the fields of the reply in order (R166). -/
structure Answer where
  clamps : List ClampField := []
  fields : List OutField := []
deriving DecidableEq, Repr

/-- The reply of an accepted command: OK, or OK~ where values were clamped. -/
def Answer.toReply (a : Answer) (tag : Text) : Reply :=
  { tag := tag, form := if a.clamps.isEmpty then .ok else .clamped a.clamps, fields := a.fields, full := false }

/-- A refusing reply. -/
def refusal (tag : Text) (r : Reason) : Reply := { tag := tag, form := .refused r, fields := [], full := false }

/-- The line may be executed now (R165): no reply of an execution waits, and the line is the oldest in the input buffer, or the
buffer is empty and the line has just come through it (DESIGN CHOICE, log entry 15). -/
def State.lineIsNext (s : State) (b : BufferedLine) : Bool :=
  !s.link.executionReplyWaits &&
    match s.link.inputBuffer with
    | [] => true
    | x :: _ => x == b

/-- The executed line leaves the input buffer. -/
def State.leaveBuffer (s : State) : State := { s with link := { s.link with inputBuffer := s.link.inputBuffer.tail } }

/-- A line that cannot be executed yet waits in the input buffer; one that is there already stays. -/
def State.deferLine (s : State) (b : BufferedLine) : State :=
  if s.link.inputBuffer.contains b then s else s.bufferLine b

/-- What a block does with a command: the reason of its refusal, or the state it leaves and its answer. A refusal has no state: a
refused command changes none (R166, R167). -/
abbrev Act := List Field → State → Test (State × Answer)

/-- The reply of a command formed and queued, the state as its block leaves it (R165). -/
def State.answer (s : State) (tag : Text) : Test (State × Answer) → State
  | .ok r => r.1.reply (r.2.toReply tag)
  | .error e => s.reply (refusal tag e)

/-- The port's FORMAT test, then the owning block (R165). -/
def State.runLine (s : State) (ln : CommandLine) (act : Act) : State :=
  match parseFields ln.tokens with
  | none => s.reply (refusal ln.tag .format)
  | some fs => s.answer ln.tag (act fs s)

/-- The execution of a command line by its verb's block (R165). -/
def State.executeLine (s : State) (verb : String) (ln : CommandLine) (act : Act) : State :=
  let b : BufferedLine := { verb := verb.toList, ln := ln }
  if s.lineIsNext b then s.leaveBuffer.runLine ln act else s.deferLine b

/-- The verbs of the catalogue (09), each with its command. -/
def verbCatalogue : List (String × (CommandLine → Instr)) :=
  [("DEFMOVER", .defmover), ("GO", .go), ("HOLD", .hold), ("RESUME", .resume), ("STOP", .stop), ("ESTOP", .estop),
   ("ACKFAULT", .ackfault), ("MOVERSTAT", .moverstat), ("STAGE", .stage), ("FLUSH", .flush), ("LOGREAD", .logread),
   ("POOLSTAT", .poolstat), ("SETPOWER", .setpower), ("POWERSTAT", .powerstat), ("DEFRULE", .defrule), ("RULESTAT", .rulestat),
   ("SETWX", .setwx), ("SETPLAN", .setplan), ("SETTRIG", .settrig), ("WXSTAT", .wxstat), ("DEFLINE", .defline),
   ("DEFSTN", .defstn), ("SERVICE", .service), ("LINESTAT", .linestat), ("STNSTAT", .stnstat), ("SUPERVISE", .supervise),
   ("BEAT", .beat), ("LINKSTAT", .linkstat), ("CLEARALL", .clearall), ("SETNOTE", .setnote)]

/-- The command of a verb, if the verb is one of the catalogue's (R165). -/
def verbCommand (verb : Text) : Option (CommandLine → Instr) :=
  (verbCatalogue.find? fun v => v.1.toList == verb).map Prod.snd

/-- The execution of a line whose verb is not in the catalogue: UNKNOWN (R165). A catalogue verb is not an unknown one. -/
def execUnknownVerb (verb : Text) (ln : CommandLine) (s : State) : Host.Outcome State Fault Refusal :=
  s.whileRunning fun s =>
    let b : BufferedLine := { verb := verb, ln := ln }
    if (verbCommand verb).isSome then s
    else if s.lineIsNext b then s.leaveBuffer.reply (refusal ln.tag .unknown)
    else s.deferLine b

end Sys2Proof.Machine
end

