-- ==== Sys2Proof/Machine/VerbsLink.lean ====
section
/-! DEFINITION. The verbs of the Supervisory Link Port (09): SUPERVISE, BEAT, LINKSTAT, CLEARALL; and of the Notice Unit (10):
SETNOTE. -/

namespace Sys2Proof.Machine

/-! ## SUPERVISE and BEAT (R171, R172) -/

/-- Supervision is turned on with UP and LOW, its timer started; or turned off, its timer stopped (R171). -/
def State.supervise (s : State) : Option (Nat × Nat) → State
  | some (up, low) =>
    { s with link := { s.link with sup := { s.link.sup with on := true, up := some up, low := some low } } }.restartSupervision
  | none =>
    let s := s.unpost .supervisionTimerExpiry
    { s with link := { s.link with sup := { s.link.sup with on := false, timer := none } } }

/-- UP= and LOW=, a minus sign each before the first accepted SUPERVISE ON=1. -/
def Supervision.settingFields (p : Supervision) : List OutField :=
  [fieldText "UP" (orAbsent natText p.up), fieldText "LOW" (orAbsent natText p.low)]

/-- SUPERVISE. -/
def actSupervise : Act := fun fs s => do
  let a ← parseSupervise fs
  firstFailing [(a.isSome && s.link.sup.lost.isSome, .linkLost)]
  let s := s.supervise a
  return (s, { fields := fieldText "SUP" (flagText s.link.sup.on) :: s.link.sup.settingFields })

/-- SUPERVISE (R171). -/
def execSupervise (ln : CommandLine) (s : State) : Host.Outcome State Fault Refusal :=
  s.whileRunning fun s => s.executeLine "SUPERVISE" ln actSupervise

/-- BEAT. -/
def actBeat : Act := fun fs s => do
  parseNothing fs
  return (s, {})

/-- BEAT (R172). -/
def execBeat (ln : CommandLine) (s : State) : Host.Outcome State Fault Refusal :=
  s.whileRunning fun s => s.executeLine "BEAT" ln actBeat

/-! ## LINKSTAT (R174) -/

/-- The fields of LINKSTAT. -/
def LinkPort.statFields (p : LinkPort) : List OutField :=
  let mode := if p.sup.on then if p.sup.low.getD 0 = 0 then "SIMPLE" else "WINDOW" else "-"
  [fieldText "SUP" (flagText p.sup.on), fieldWord "MODE" mode] ++ p.sup.settingFields ++
    [fieldText "LEFT" (orAbsent natText p.sup.timer), fieldText "LOST" (flagText p.sup.lost.isSome),
     fieldWord "CAUSE"
      (match p.sup.lost with
       | some c => c.word
       | none => "NONE"),
     fieldNat "ERR" p.errors, fieldNat "BUF" p.inputBuffer.length]

/-- What LINKSTAT clears after its reply is formed (R174). -/
def State.clearLinkStatus (s : State) : State :=
  { s with
    link :=
      { s.link with
        errors := 0
        sup := { s.link.sup with lost := if s.link.sup.on then s.link.sup.lost else none } } }

/-- LINKSTAT. -/
def actLinkstat : Act := fun fs s => do
  parseNothing fs
  return (s.clearLinkStatus, { fields := s.link.statFields })

/-- LINKSTAT (R174). -/
def execLinkstat (ln : CommandLine) (s : State) : Host.Outcome State Fault Refusal :=
  s.whileRunning fun s => s.executeLine "LINKSTAT" ln actLinkstat

/-! ## CLEARALL (R175) -/

/-- The level of STOPIN taken as the starting level: SAFETY STOP_OPEN where it is open (R20). -/
def State.takeStopLevel (s : State) : State := if s.pins.stopOpen then s.raise .stopOpen else s

/-- Power-up values in every block, but for the timebase, the pins, the line on TXD and the line being received (R175). A line on
TXD that began with Z no longer clears the first-line flag, which has just been set again (DEDUCED, log entry 21). A receiver between
lines keeps whether it has counted a stray run: the line that carried the CLEARALL has ended (DEDUCED, log entry 6). -/
def State.clearAll (s : State) : State :=
  { timebase := s.timebase
    pins := s.pins
    link := { receiver := s.link.receiver, tx := s.link.tx.map fun t => { t with carriesZ := false } }
    posted := s.posted.filter fun i => i == .transmitLineEnd
    pending := s.pending }

/-- CLEARALL. The FORMAT test is made before the BUSY test (R175 with R165; DEDUCED, log entry 54). -/
def actClearall : Act := fun fs s => do
  parseNothing fs
  firstFailing [(allMovers.any fun m => !(s.mv m).atRest, .busy)]
  return (s.clearAll, {})

/-- A CLEARALL line is executed now, and accepted. -/
def State.clearallAccepted (s : State) (ln : CommandLine) : Bool :=
  s.lineIsNext { verb := "CLEARALL".toList, ln := ln } &&
    match parseFields ln.tokens with
    | some fs => (actClearall fs s.leaveBuffer).isOk
    | none => false

/-- CLEARALL (R175): after the reply, which an idle transmitter begins to send, STOPIN's level is taken, in the same event. With the
transmitter busy STOP_OPEN is raised while the reply waits (DESIGN CHOICE, log entry 56). -/
def execClearall (ln : CommandLine) (s : State) : Host.Outcome State Fault Refusal :=
  s.whileRunning fun s =>
    let t := s.executeLine "CLEARALL" ln actClearall
    if s.clearallAccepted ln then t.serveTransmitter.takeStopLevel else t

/-! ## SETNOTE (R183, R184) -/

/-- A class named with 0 is emptied and disabled; one named with 1 that was disabled is enabled, empty, with its mark clear; any
other is kept (R184). -/
def ClassQueue.setEnable (q : ClassQueue) : Option Bool → ClassQueue
  | some false => if q.enabled then { enabled := false, queue := [], overflow := false } else q
  | some true => if q.enabled then q else { enabled := true, queue := [], overflow := false }
  | none => q

/-- An accepted SETNOTE: the enables, then the log threshold with its test (R184). -/
def State.setNote (s : State) (a : NoteArgs) : State :=
  let s := { s with
    notices :=
      { s.notices with
        safety := s.notices.safety.setEnable a.safety
        motion := s.notices.motion.setEnable a.motion
        weather := s.notices.weather.setEnable a.weather
        line := s.notices.line.setEnable a.line } }
  match a.logThreshold with
  | some n => { s with notices := { s.notices with logThreshold := n } }.thresholdTest
  | none => s

/-- SETNOTE. -/
def actSetnote : Act := fun fs s => do
  let a ← parseSetnote fs
  let s := s.setNote a
  let n := s.notices
  return (s,
    { fields :=
        [fieldText "SAFETY" (flagText n.safety.enabled), fieldText "MOTION" (flagText n.motion.enabled),
         fieldText "WEATHER" (flagText n.weather.enabled), fieldText "LINE" (flagText n.line.enabled),
         fieldNat "LOGTHR" n.logThreshold] })

/-- SETNOTE (R183, R184). -/
def execSetnote (ln : CommandLine) (s : State) : Host.Outcome State Fault Refusal :=
  s.whileRunning fun s => s.executeLine "SETNOTE" ln actSetnote

end Sys2Proof.Machine
end

