-- ==== Sys2Proof/Machine/Events.lean ====
section
/-! DEFINITION. The events: of the pins, of the supervisory link, of the track lines, of the movers and of the Weather Monitor. An
event that the part posts to itself leaves `posted` as it is taken; one that does not fit the state it reaches changes nothing
(DEDUCED, log entry 13). -/

namespace Sys2Proof.Machine

/-- An event that is taken: its posting leaves the list, then it acts (log entry 1). -/
def State.takeEvent (s : State) (i : Instr) (f : State → State) : Host.Outcome State Fault Refusal :=
  s.whileRunning fun s => f (s.unpost i)

/-! ## Pins (R1, R20, R161, R176) -/

/-- Every block at its power-up values, the pins and the commands that wait kept (R30, R56, R108, R125, R141, R160, R176, R185). -/
def State.powerUp (s : State) (pins : Pins) : State := { pins := pins, pending := s.pending }

/-- The part comes out of RESET: BAUDSEL is read, STOPIN's level is taken as the starting level, and the transmitter may begin
(R20, R161, R176). -/
def State.comeUp (s : State) (stopOpen baudHigh : Bool) : State :=
  (s.powerUp { resetLow := false, stopOpen := stopOpen, fastLink := baudHigh }).takeStopLevel.serveTransmitter

/-- POWER_ON (R1, R20, R161, R176): with RESET low the part is held at its power-up values. -/
def execPowerOn (resetLow stopOpen baudHigh : Bool) (s : State) : Host.Outcome State Fault Refusal :=
  .next
    (if resetLow then s.powerUp { resetLow := true, stopOpen := stopOpen, fastLink := s.pins.fastLink }
     else s.comeUp stopOpen baudHigh)

/-- RESET_ASSERT (R1, R161): every block at its power-up values, the line being sent cut off, the line being received lost. -/
def execResetAssert (s : State) : Host.Outcome State Fault Refusal :=
  .next (if s.pins.resetLow then s else s.powerUp { s.pins with resetLow := true })

/-- RESET_RELEASE (R20, R161, R176). -/
def execResetRelease (baudHigh : Bool) (s : State) : Host.Outcome State Fault Refusal :=
  .next (if s.pins.resetLow then s.comeUp s.pins.stopOpen baudHigh else s)

/-- The level of STOPIN. -/
def State.setStopin (s : State) (stopOpen : Bool) : State := { s with pins := { s.pins with stopOpen := stopOpen } }

/-- STOPIN_OPENING (R20): SAFETY STOP_OPEN, and the emergency stop reaches every mover. The movers are taken one at a time in number
order, where R100 allows either way (DESIGN CHOICE, log entry 38). -/
def execStopinOpening (s : State) : Host.Outcome State Fault Refusal :=
  if s.pins.stopOpen then .next s
  else if s.pins.resetLow then .next (s.setStopin true)
  else s.whileRunning fun s => allMovers.foldl State.emergencyStop ((s.setStopin true).raise .stopOpen)

/-- STOPIN_CLOSING (R20): SAFETY STOP_CLOSED. -/
def execStopinClosing (s : State) : Host.Outcome State Fault Refusal :=
  if !s.pins.stopOpen then .next s
  else if s.pins.resetLow then .next (s.setStopin false)
  else s.whileRunning fun s => (s.setStopin false).raise .stopClosed

/-! ## The supervisory link (R162 to R164, R170, R173) -/

/-- LINE_RECEIVED (R162 to R164, R171, R172): the receiver takes the characters of the line in their order. -/
def execLineReceived (line : List RxChar) (s : State) : Host.Outcome State Fault Refusal :=
  s.whileRunning fun s => line.foldl State.receiveChar s

/-- CHARACTER_ARRIVAL (R162). -/
def execCharacterArrival (c : RxChar) (s : State) : Host.Outcome State Fault Refusal :=
  s.whileRunning fun s => s.receiveChar c

/-- TRANSMIT_LINE_END (R168, R170, R181): the transmitter falls idle and chooses the next line. -/
def execTransmitLineEnd (s : State) : Host.Outcome State Fault Refusal := s.takeEvent .transmitLineEnd State.endLine

/-- SUPERVISION_TIMER_EXPIRY (R171, R173), while the timer runs. -/
def execSupervisionTimerExpiry (s : State) : Host.Outcome State Fault Refusal :=
  s.takeEvent .supervisionTimerExpiry fun s => if s.link.sup.timer.isSome then s.loseLink .timeout else s

/-! ## The track lines (R148 to R158) -/

/-- LINE_PERIOD_EXPIRY (R148, R156). -/
def execLinePeriodExpiry (l : LineId) (s : State) : Host.Outcome State Fault Refusal :=
  s.takeEvent (.linePeriodExpiry l) fun s => s.periodExpiry l

/-- FRAME_RECEIVED (R149 to R152, R158): the frame ends the exchange that waits; where none waits, and where it comes for an exchange
that has ended, it is discarded (R144, R147, R149). -/
def execFrameReceived (l : LineId) (f : Frame) (s : State) : Host.Outcome State Fault Refusal :=
  s.whileRunning fun s =>
    if f.late then s
    else
      match (s.line l).phase with
      | .exchange st => s.stationFrame l st f
      | .serviceExchange r => s.serviceFrame l r f
      | .betweenRounds => s

/-- RESPONSE_TIMEOUT (R149, R152). -/
def execResponseTimeout (l : LineId) (s : State) : Host.Outcome State Fault Refusal :=
  s.takeEvent (.responseTimeout l) fun s =>
    match (s.line l).phase with
    | .exchange st => (s.missedReport l st).continueRound l st
    | _ => s

/-- SERVICE_REPLY_RECEIVED (R158); a late frame is discarded (R144, R147, R149). -/
def execServiceReplyReceived (l : LineId) (f : Frame) (s : State) : Host.Outcome State Fault Refusal :=
  s.whileRunning fun s =>
    if f.late then s
    else
      match (s.line l).phase with
      | .serviceExchange r => s.serviceFrame l r f
      | _ => s

/-- SERVICE_TIMEOUT (R158). -/
def execServiceTimeout (l : LineId) (s : State) : Host.Outcome State Fault Refusal :=
  s.takeEvent (.serviceTimeout l) fun s =>
    match (s.line l).phase with
    | .serviceExchange r => s.finishService l r .noReply none
    | _ => s

/-! ## The movers (R5, R13, R16, R25, R76, R91) -/

/-- Every track of the configured mover has its round result mark (R5). -/
def Mover.trackSetComplete (mv : Mover) : Bool :=
  mv.configured && mv.marks.length == mv.cfg.tracks.length && mv.marks.all id

/-- TRACK_SET_COMPLETE (R5, R6): the marks are cleared and the mover update runs. -/
def execTrackSetComplete (m : MoverNo) (s : State) : Host.Outcome State Fault Refusal :=
  s.takeEvent (.trackSetComplete m) fun s =>
    if (s.mv m).trackSetComplete then (s.modMv m fun x => { x with marks := [] }).moverUpdate m else s

/-- HOLD_REASON_ADDITION (R13, R14). -/
def execHoldReasonAddition (m : MoverNo) (r : HoldReason) (s : State) : Host.Outcome State Fault Refusal :=
  s.takeEvent (.holdReasonAddition m r) fun s => s.addReason m r

/-- HOLD_REASON_REMOVAL (R13, R16). -/
def execHoldReasonRemoval (m : MoverNo) (r : HoldReason) (s : State) : Host.Outcome State Fault Refusal :=
  s.takeEvent (.holdReasonRemoval m r) fun s => s.removeReasons m [r]

/-- TLOCK expires in UNLOCKING or ENDING (R25). -/
def State.tlockFault (s : State) (m : MoverNo) : State :=
  match (s.mv m).state with
  | .unlocking | .ending => if (s.mv m).tlock.isSome then s.enterFault m .lock [] else s
  | _ => s

/-- TLOCK_EXPIRY (R25). -/
def execTlockExpiry (m : MoverNo) (s : State) : Host.Outcome State Fault Refusal :=
  s.takeEvent (.tlockExpiry m) fun s => s.tlockFault m

/-- TBRK expires in RELEASING, in HOLDING after the brake order, or in ENDING (R25). -/
def State.tbrkFault (s : State) (m : MoverNo) : State :=
  match (s.mv m).state with
  | .releasing | .holding | .ending => if (s.mv m).tbrk.isSome then s.enterFault m .brake [] else s
  | _ => s

/-- TBRK_EXPIRY (R25). -/
def execTbrkExpiry (m : MoverNo) (s : State) : Host.Outcome State Fault Refusal :=
  s.takeEvent (.tbrkExpiry m) fun s => s.tbrkFault m

/-- TSTOP expires in STOPPING, or in FAULT with the stop not complete, which it completes unconfirmed (R25, R27). -/
def State.tstopEnd (s : State) (m : MoverNo) : State :=
  if (s.mv m).tstop.isNone then s
  else
    match (s.mv m).state with
    | .stopping => s.enterFault m .stopTimeout []
    | .fault =>
      if (s.mv m).faultStopComplete then s
      else
        (s.modMv m fun x => { x with fault := x.fault.map fun f => f.note .stopUnconfirmed }).completeFaultStop m
    | _ => s

/-- TSTOP_EXPIRY (R25, R27). -/
def execTstopExpiry (m : MoverNo) (s : State) : Host.Outcome State Fault Refusal :=
  s.takeEvent (.tstopExpiry m) fun s => s.tstopEnd m

/-- The executing segment is a DWELL that has entered RUNNING. -/
def Mover.dwelling (mv : Mover) : Bool :=
  mv.hasBegun &&
    match mv.exec with
    | some e =>
      match e.seg.kind with
      | .dwell _ => true
      | _ => false
    | none => false

/-- DWELL_EXPIRY (R76): in RUNNING the DWELL completes DWELLED. -/
def execDwellExpiry (m : MoverNo) (s : State) : Host.Outcome State Fault Refusal :=
  s.takeEvent (.dwellExpiry m) fun s =>
    if (s.mv m).state == .running && (s.mv m).dwelling then s.completeSegment m .dwelled else s

/-- ALIGN_TIMER_EXPIRY (R91): in RUNNING with an executing ALIGN the mover enters FAULT. -/
def execAlignTimerExpiry (m : MoverNo) (s : State) : Host.Outcome State Fault Refusal :=
  s.takeEvent (.alignTimerExpiry m) fun s =>
    if (s.mv m).state == .running && (s.mv m).aligning && (s.mv m).alignLeft.isSome then s.enterFault m .align [] else s

/-! ## The Weather Monitor (R128, R132, R137) -/

/-- REPORT_ARRIVAL (R128 to R131, R134). -/
def execReportArrival (st : StationNo) (s : State) : Host.Outcome State Fault Refusal :=
  s.takeEvent (.reportArrival st) fun s => s.reportArrival st

/-- SOURCE_LOSS (R128 to R131). -/
def execSourceLoss (st : StationNo) (s : State) : Host.Outcome State Fault Refusal :=
  s.takeEvent (.sourceLoss st) fun s => s.sourceLoss st

/-- RELEASE_TIMER_EXPIRY (R132). -/
def execReleaseTimerExpiry (s : State) : Host.Outcome State Fault Refusal :=
  s.takeEvent .releaseTimerExpiry State.releaseExpiry

/-- TRIGGER_FIRING (R137, R138, R139). -/
def execTriggerFiring (m : MoverNo) (s : State) : Host.Outcome State Fault Refusal :=
  s.takeEvent (.triggerFiring m) fun s => s.fireTrigger m

end Sys2Proof.Machine
end

