-- ==== Sys2Proof/Machine/Clock.lean ====
section
/-! DEFINITION. What the part does by itself when no command waits (DESIGN CHOICE, log entries 1 and 2): the oldest event its blocks have posted,
else the oldest buffered line that may be executed, else one millisecond of the timebase. -/

namespace Sys2Proof.Machine

/-- A millisecond off a timer: what is left, and whether it has expired. -/
def countDown (n : Nat) : Nat × Bool := (n - 1, decide (n ≤ 1))

/-- The expiry of a timer is posted when its time has passed. -/
def State.postIf (s : State) (expired : Bool) (i : Instr) : State := if expired then s.postOnce i else s

/-- The timers of R25 of one mover. -/
def State.tickMoverTimers (s : State) (m : MoverNo) : State :=
  let x := s.mv m
  let s := s.modMv m fun x =>
    { x with
      tlock := x.tlock.map fun n => (countDown n).1
      tbrk := x.tbrk.map fun n => (countDown n).1
      tstop := x.tstop.map fun n => (countDown n).1 }
  ((s.postIf (x.tlock.any fun n => (countDown n).2) (.tlockExpiry m)).postIf
    (x.tbrk.any fun n => (countDown n).2) (.tbrkExpiry m)).postIf (x.tstop.any fun n => (countDown n).2) (.tstopExpiry m)

/-- The dwell timer, which runs in RUNNING (R25, R36, R76). -/
def State.tickDwell (s : State) (m : MoverNo) : State :=
  let x := s.mv m
  if x.state == .running && x.dwelling then
    let left := match x.exec with
      | some e => e.part.dwellLeft
      | none => 0
    (s.modMv m fun x => x.modPart fun q => { q with dwellLeft := q.dwellLeft - 1 }).postIf (countDown left).2 (.dwellExpiry m)
  else s

/-- The alignment timer, which runs in RUNNING (R78, R91). -/
def State.tickAlign (s : State) (m : MoverNo) : State :=
  let x := s.mv m
  match x.alignLeft with
  | some n =>
    if x.state == .running && x.aligning then
      (s.modMv m fun x => { x with alignLeft := some (countDown n).1 }).postIf (countDown n).2 (.alignTimerExpiry m)
    else s
  | none => s

/-- The timers of one mover. -/
def State.tickMover (s : State) (m : MoverNo) : State := ((s.tickMoverTimers m).tickDwell m).tickAlign m

/-- The expiry of a line's response timeout, by the exchange that waits (R149, R158). -/
def LinePhase.timeout (l : LineId) : LinePhase → Instr
  | .serviceExchange _ => .serviceTimeout l
  | _ => .responseTimeout l

/-- The timers of one track line (R148, R149, R158). -/
def State.tickLine (s : State) (l : LineId) : State :=
  let c := s.line l
  let s := s.modLine l fun c =>
    { c with
      period := c.period.map fun n => (countDown n).1
      response := c.response.map fun n => (countDown n).1 }
  (s.postIf (c.response.any fun n => (countDown n).2) (c.phase.timeout l)).postIf
    (c.period.any fun n => (countDown n).2) (.linePeriodExpiry l)

/-- The release timer (R131). -/
def State.tickRelease (s : State) : State :=
  match s.wx.releaseTimer with
  | some n => { s with wx := { s.wx with releaseTimer := some (countDown n).1 } }.postIf (countDown n).2 .releaseTimerExpiry
  | none => s

/-- The supervision timer (R171). -/
def State.tickSupervision (s : State) : State :=
  match s.link.sup.timer with
  | some n =>
    { s with link := { s.link with sup := { s.link.sup with timer := some (countDown n).1 } } }.postIf (countDown n).2
      .supervisionTimerExpiry
  | none => s

/-- Thousandths of a bit time that pass in a millisecond at the latched rate (R161). -/
def Pins.bitsPerMs (p : Pins) : Nat := if p.fastLink then 115200 else 57600

/-- The line on TXD goes on (R161, R170). -/
def State.tickTransmitter (s : State) : State :=
  match s.link.tx with
  | some t =>
    { s with link := { s.link with tx := some { t with left := t.left - s.pins.bitsPerMs } } }.postIf
      (decide (t.left ≤ s.pins.bitsPerMs)) .transmitLineEnd
  | none => s

/-- One millisecond of the timebase (R1). While RESET is low the timebase stands at 0 and no timer runs. -/
def State.tick (s : State) : State :=
  if s.pins.resetLow then s
  else
    let s := { s with timebase := s.timebase + 1 }.tickSupervision
    let s := allMovers.foldl State.tickMover ((s.tickLine .A).tickLine .B)
    s.tickRelease.tickTransmitter

/-- The command that a buffered line is: its verb's, or an unknown verb (R165). -/
def BufferedLine.command (b : BufferedLine) : Instr :=
  match verbCommand b.verb with
  | some f => f b.ln
  | none => .unknownVerb b.verb b.ln

/-- The event the part takes by itself: the oldest posted one, else the execution of the oldest buffered line when no reply of an
execution waits (R165). While RESET is low it takes none. -/
def State.ownNext (s : State) : Option Instr :=
  if s.pins.resetLow then none
  else
    match s.posted with
    | i :: _ => some i
    | [] => if s.link.executionReplyWaits then none else s.link.inputBuffer.head?.map BufferedLine.command

end Sys2Proof.Machine
end

