-- ==== Sys2Proof/Machine/VerbsMover.lean ====
section
/-! DEFINITION. The verbs of the Mover Sequencers (01): DEFMOVER, GO, HOLD, RESUME, STOP, ESTOP, ACKFAULT, MOVERSTAT. -/

namespace Sys2Proof.Machine

/-- STATE= of a mover. -/
def State.stateField (s : State) (m : MoverNo) : OutField := fieldWord "STATE" (s.mv m).state.word

/-- The mover is UNCONFIGURED. -/
def State.unconfigured (s : State) (m : MoverNo) : Bool := !(s.mv m).configured

/-! ## DEFMOVER (R2 to R5) -/

/-- A defined rule names the mover. -/
def State.inRule (s : State) (m : MoverNo) : Bool :=
  allRules.any fun c =>
    match s.rule c with
    | some r => r.g == m || r.k == m
    | none => false

/-- The station is UNUSED. -/
def State.unused (s : State) (st : StationNo) : Bool := (s.stn st).isNone

/-- The station is not of a type, or its owner is a mover other than m (R3 test 4). -/
def State.foreign (s : State) (m : MoverNo) (t : StationType) (st : StationNo) : Bool :=
  match s.stn st with
  | some x => x.type != t || x.owner.any fun o => o != m
  | none => false

/-- The lines that carry the stations of a list. -/
def State.linesOf (s : State) (sts : List StationNo) : List LineId := sts.filterMap fun st => (s.stn st).map Station.line

/-- PER of a line's record, 0 before the first DEFLINE. -/
def State.period (s : State) (l : LineId) : Nat :=
  match (s.line l).record with
  | some r => r.per
  | none => 0

/-- A line of the tracks is OFF, or they lie on both lines and the periods differ (R3 test 5). -/
def State.linesUnfit (s : State) (tracks : List StationNo) : Bool :=
  let ls := s.linesOf tracks
  ls.any (fun l => !(s.line l).polling) || (ls.contains .A && ls.contains .B && s.period .A != s.period .B)

/-- The tests of R3. -/
def State.defmoverTests (s : State) (m : MoverNo) (r : MoverRec) : List (Bool × Reason) :=
  [((s.mv m).configured && !(s.mv m).atRest, .busy),
   (s.inRule m, .conflict),
   (r.tracks.any s.unused || r.lockst.any s.unused, .undefined),
   (!decide r.tracks.Nodup || r.tracks.any (s.foreign m .drive) || r.lockst.any (s.foreign m .lock), .conflict),
   (s.linesUnfit r.tracks, .conflict),
   (decide (r.cap < (s.mv m).chain.length), .conflict)]

/-- The stations that the record names take mover m as owner; one of its stations that it no longer names loses its owner and takes
the image of a station of no mover (R4). -/
def State.takeStations (s : State) (m : MoverNo) (r : MoverRec) : State :=
  allStations.foldl
    (fun s st =>
      s.modStn st fun x =>
        if r.tracks.contains st || r.lockst == some st then { x with owner := some m }
        else if x.owner == some m then { x with owner := none, image := x.type.freeImage }
        else x)
    s

/-- The mover under its new record: an UNCONFIGURED one comes to IDLE at LO; a configured one keeps its state, its p clamped into
the new travel. The trim state and the marks are cleared, and the position is unset (R4, R8). With the trim state the mean and the skew
of a configured mover go, too, until the next update forms them (DEDUCED, log entry 46). -/
def Mover.define (mv : Mover) (r : MoverRec) : Mover :=
  if mv.configured then
    { mv with
      record := some r, p := r.clampTravel mv.p, positionUnset := true, marks := [], trim := none, skewWarn := false }
  else
    { mv with
      record := some r, state := .idle, holdSet := {}, fault := none, p := r.loUm, v := 0, dir := none, residue := 0,
      positionUnset := true, marks := [], trim := none, skewWarn := false }

/-- An accepted DEFMOVER (R4). -/
def State.defineMover (s : State) (m : MoverNo) (r : MoverRec) : State :=
  let fresh := s.unconfigured m
  let s := (s.takeStations m r).modMv m fun x => x.define r
  let s := if fresh then s.modTrig m fun _ => {} else s
  s.writeImages m

/-- DEFMOVER. -/
def actDefmover : Act := fun fs s => do
  let (m, r) ← parseDefmover fs
  firstFailing (s.defmoverTests m r)
  let s := s.defineMover m r
  return (s, { fields := [fieldNat "M" m.val, fieldNat "T" (s.updatePeriod m)] })

/-- DEFMOVER (R2 to R5, R8). -/
def execDefmover (ln : CommandLine) (s : State) : Host.Outcome State Fault Refusal :=
  s.whileRunning fun s => s.executeLine "DEFMOVER" ln actDefmover

/-! ## GO (R9) -/

/-- The tests of R9. -/
def State.goTests (s : State) (m : MoverNo) : List (Bool × Reason) :=
  [(s.unconfigured m, .undefined),
   (s.pins.stopOpen, .stopOpen),
   (s.link.sup.lost.isSome, .linkLost),
   ((s.mv m).state != .idle, .busy),
   ((s.mv m).chain.isEmpty, .chainEmpty),
   (s.trackLost m || (s.mv m).positionUnset, .feedback)]

/-- EXEC=: the executing segment's TAG, or NONE. -/
def State.execField (s : State) (m : MoverNo) : OutField :=
  fieldText "EXEC"
    (match (s.mv m).exec with
     | some e => natText e.seg.tag
     | none => "NONE".toList)

/-- GO. -/
def actGo : Act := fun fs s => do
  let m ← parseMover fs
  firstFailing (s.goTests m)
  let s := (s.take m).startTaken m
  return (s, { fields := [s.stateField m, s.execField m] })

/-- GO (R9, R133). -/
def execGo (ln : CommandLine) (s : State) : Host.Outcome State Fault Refusal :=
  s.whileRunning fun s => s.executeLine "GO" ln actGo

/-! ## HOLD and RESUME (R17) -/

/-- The movers that M=n or M=ALL names: ALL takes every configured mover in number order. -/
def State.named (s : State) : Option MoverNo → List MoverNo
  | some m => [m]
  | none => s.configuredMovers

/-- M=n names an UNCONFIGURED mover. -/
def State.namesUnconfigured (s : State) : Option MoverNo → Bool
  | some m => s.unconfigured m
  | none => false

/-- HOLD. -/
def actHold : Act := fun fs s => do
  let m ← parseMoverOrAll fs
  firstFailing [(s.namesUnconfigured m, .undefined)]
  return ((s.named m).foldl (fun s m => s.addReason m .operator) s, {})

/-- HOLD (R14, R17). -/
def execHold (ln : CommandLine) (s : State) : Host.Outcome State Fault Refusal :=
  s.whileRunning fun s => s.executeLine "HOLD" ln actHold

/-- The tests of RESUME (R17). -/
def State.resumeTests (s : State) (m : MoverNo) : List (Bool × Reason) :=
  [(s.unconfigured m, .undefined),
   ((s.mv m).state == .stopped && s.pins.stopOpen, .stopOpen),
   (s.link.sup.lost.isSome, .linkLost),
   ((s.mv m).state == .fault, .busy)]

/-- An accepted RESUME (R17, R22). -/
def State.resumeMover (s : State) (m : MoverNo) : State :=
  if (s.mv m).state == .stopped then s.enterIdle m else s.removeReasons m [.operator, .link]

/-- RESUME. -/
def actResume : Act := fun fs s => do
  let m ← parseMover fs
  firstFailing (s.resumeTests m)
  let s := s.resumeMover m
  return (s, { fields := [s.stateField m] })

/-- RESUME (R16, R17, R22). -/
def execResume (ln : CommandLine) (s : State) : Host.Outcome State Fault Refusal :=
  s.whileRunning fun s => s.executeLine "RESUME" ln actResume

/-! ## STOP (R18) -/

/-- A STOP is put in progress. -/
def State.putStop (s : State) (m : MoverNo) : State := s.modMv m fun x => { x with stopInProgress := true }

/-- The effect of STOP by state (R18). -/
def State.stopMover (s : State) (m : MoverNo) : State :=
  match (s.mv m).state with
  | .idle | .stopped | .ending => s.flushChain m
  | .awaitPower => (s.withdrawRequest m).finishStop m
  | .held => s.finishStop m
  | .unlocking => ((s.putStop m).cancelTlock m).holdWithBrakes m
  | .releasing => (s.putStop m).holdWithBrakes m
  | .running => (s.putStop m).holdMoving m
  | .holding => s.putStop m
  | .unconfigured | .stopping | .fault => s

/-- STOP. -/
def actStop : Act := fun fs s => do
  let m ← parseMover fs
  firstFailing [(s.unconfigured m, .undefined), ((s.mv m).state == .stopping || (s.mv m).state == .fault, .busy)]
  let s := s.stopMover m
  return (s, { fields := [s.stateField m] })

/-- STOP (R18). -/
def execStop (ln : CommandLine) (s : State) : Host.Outcome State Fault Refusal :=
  s.whileRunning fun s => s.executeLine "STOP" ln actStop

/-! ## ESTOP (R20) -/

/-- ESTOP. -/
def actEstop : Act := fun fs s => do
  let m ← parseMoverOrAll fs
  firstFailing [(s.namesUnconfigured m, .undefined)]
  return ((s.named m).foldl State.emergencyStop s, {})

/-- ESTOP (R20, R21). -/
def execEstop (ln : CommandLine) (s : State) : Host.Outcome State Fault Refusal :=
  s.whileRunning fun s => s.executeLine "ESTOP" ln actEstop

/-! ## ACKFAULT (R28) -/

/-- The cause of the primary kind persists (R28). A mean that cannot be formed shows no overtravel (DEDUCED, log entry 28). -/
def State.causePresent (s : State) (m : MoverNo) : Bool :=
  match (s.mv m).fault with
  | none => false
  | some f =>
    match f.primary with
    | .feedback => s.trackLost m
    | .drive =>
      (s.mv m).cfg.tracks.any fun st =>
        match s.driveReport st with
        | some (_, .tripped, _) | some (_, .disabled, _) => true
        | _ => false
    | .lock => s.lockReport m == some .jammed
    | .overtravel => (s.measured m).any fun xs => (s.mv m).cfg.beyondMargin (meanOf xs)
    | _ => false

/-- The tests of R28, for a mover in FAULT. -/
def State.ackfaultTests (s : State) (m : MoverNo) : List (Bool × Reason) :=
  [(s.unconfigured m, .undefined),
   ((s.mv m).state == .fault && !(s.mv m).faultStopComplete, .busy),
   ((s.mv m).state == .fault && s.causePresent m, .causePresent)]

/-- An accepted ACKFAULT in FAULT: the record cleared, p initialised, v at 0, IDLE (R28). -/
def State.ackFault (s : State) (m : MoverNo) : State :=
  ((s.modMv m fun x => { x with fault := none, v := 0 }).initPositionAtRest m).enterIdle m

/-- ACKFAULT. -/
def actAckfault : Act := fun fs s => do
  let m ← parseMover fs
  firstFailing (s.ackfaultTests m)
  return (if (s.mv m).state == .fault then s.ackFault m else s, {})

/-- ACKFAULT (R28). -/
def execAckfault (ln : CommandLine) (s : State) : Host.Outcome State Fault Refusal :=
  s.whileRunning fun s => s.executeLine "ACKFAULT" ln actAckfault

/-! ## MOVERSTAT (R29) -/

/-- FAULT=, followed in FAULT by the record (R29). FSEC lists the secondary set, which has no order (R26), in the order of detection
(DESIGN CHOICE, log entry 43). -/
def faultFields : Option FaultRec → List OutField
  | none => [fieldWord "FAULT" "NONE"]
  | some f =>
    [fieldWord "FAULT" f.primary.word, fieldNat "FTIME" f.time.toNat, fieldText "FP" (mmText f.p),
     fieldText "FMEAN" (orAbsent mmText f.mean), fieldText "FSEC" (listOrNone (f.secondary.map fun k => k.word.toList)),
     fieldText "FSTOP" (flagText f.stopComplete)]

/-- STATE=, followed in HOLDING by BRK= and, with a STOP in progress, STOPPING=1. -/
def Mover.stateFields (x : Mover) : List OutField :=
  fieldWord "STATE" x.state.word ::
    (if x.state == .holding then
      fieldText "BRK" (flagText x.brakeOrdered) :: if x.stopInProgress then [fieldNat "STOPPING" 1] else []
     else [])

/-- The fields of MOVERSTAT (R29). -/
def State.moverFields (s : State) (m : MoverNo) : List OutField :=
  let x := s.mv m
  if !x.configured then [fieldWord "STATE" "UNCONFIGURED"]
  else
    x.stateFields ++ [fieldText "HOLD" x.holdSet.text, fieldText "P" (mmText x.p)] ++
      (if x.positionUnset then [fieldNat "UNSET" 1] else []) ++
      [fieldText "MEAN" (orAbsent mmText x.mean), fieldText "VEL" (mmText x.signedV),
       fieldText "SKEW" (orAbsent (fun t : Trim => mmText t.skew) x.trim), fieldText "SKWARN" (flagText x.skewWarn),
       fieldNat "GRANT" (s.grant m), fieldNat "CHAIN" x.chain.length, s.execField m] ++
      faultFields x.fault ++
      [fieldText "TRIG" (flagText (s.trig m).masked), fieldText "TPEND" (flagText (s.trig m).pendingFlag)]

/-- MOVERSTAT. -/
def actMoverstat : Act := fun fs s => do
  let m ← parseMover fs
  return (s, { fields := s.moverFields m })

/-- MOVERSTAT (R29). -/
def execMoverstat (ln : CommandLine) (s : State) : Host.Outcome State Fault Refusal :=
  s.whileRunning fun s => s.executeLine "MOVERSTAT" ln actMoverstat

end Sys2Proof.Machine
end

