-- ==== Sys2Proof/Machine/VerbsLines.lean ====
section
/-! DEFINITION. The verbs of the Track Line Controllers and the Station Table (08): DEFLINE, DEFSTN, SERVICE, LINESTAT, STNSTAT. -/

namespace Sys2Proof.Machine

/-! ## DEFLINE (R143, R144) -/

/-- A test of the stations of line l. -/
def State.anyStation (s : State) (l : LineId) (test : Station → Bool) : Bool :=
  allStations.any fun st =>
    match s.stn st with
    | some x => x.line == l && test x
    | none => false

/-- A configured mover that is not at rest has a track on line l (R143 test 3). -/
def State.lineInUse (s : State) (l : LineId) : Bool :=
  allMovers.any fun m =>
    let x := s.mv m
    x.configured && !x.atRest && (s.linesOf x.cfg.tracks).contains l

/-- The station is owned by a configured mover. -/
def State.ownedByConfigured (s : State) (x : Station) : Bool := x.owner.any fun m => (s.mv m).configured

/-- A track of a configured mover lies on line l. -/
def State.lineHasTrack (s : State) (l : LineId) : Bool :=
  allMovers.any fun m => (s.mv m).configured && (s.linesOf (s.mv m).cfg.tracks).contains l

/-- The tests of R143 after RANGE. -/
def State.deflineTests (s : State) (l : LineId) (r : Option LineSettings) : List (Bool × Reason) :=
  [(s.lineInUse l, .busy),
   (r.isNone && s.anyStation l (fun x => s.ownedByConfigured x || x.source), .conflict),
   ((s.line l).polling && (r.any fun r => r.per != s.period l) && s.lineHasTrack l, .conflict)]

/-- The line goes OFF: what was under way is abandoned, its timers stop, the overrun flag is cleared (R144). -/
def State.lineOff (s : State) (l : LineId) : State :=
  let s := ((s.unpost (.linePeriodExpiry l)).unpost (.responseTimeout l)).unpost (.serviceTimeout l)
  s.modLine l fun c =>
    { c with
      polling := false, period := none, overdue := false, overrun := false, phase := .betweenRounds, response := none }

/-- An accepted DEFLINE by the state of the line (R144). Every request is discarded first (DEDUCED, log entry 32). -/
def State.defineLine (s : State) (l : LineId) (r : Option LineSettings) : State :=
  let inFlight := (s.line l).servicing fun _ => true
  let s := s.discardRequests l fun _ => true
  match r, (s.line l).polling with
  | none, false => s
  | none, true => s.lineOff l
  | some r, false => (s.modLine l fun c => { c with record := some r, polling := true }).beginRound l
  | some r, true =>
    let s := s.modLine l fun c => { c with record := some r }
    if inFlight then s.endRound l else s

/-- PER=, TMO= and MISS= of a line record. -/
def settingsFields (r : Option LineSettings) : List OutField :=
  [fieldText "PER" (orAbsent (fun r : LineSettings => natText r.per) r),
   fieldText "TMO" (orAbsent (fun r : LineSettings => natText r.tmo) r),
   fieldText "MISS" (orAbsent (fun r : LineSettings => natText r.miss) r)]

/-- L=, STATE= and the record. -/
def State.lineFields (s : State) (l : LineId) : List OutField :=
  [fieldText "L" (lineWord l), fieldWord "STATE" (if (s.line l).polling then "POLLING" else "OFF")] ++
    settingsFields (s.line l).record

/-- DEFLINE. -/
def actDefline : Act := fun fs s => do
  let (l, r) ← parseDefline fs
  firstFailing (s.deflineTests l r)
  let s := s.defineLine l r
  return (s, { fields := s.lineFields l })

/-- DEFLINE (R143, R144). -/
def execDefline (ln : CommandLine) (s : State) : Host.Outcome State Fault Refusal :=
  s.whileRunning fun s => s.executeLine "DEFLINE" ln actDefline

/-! ## DEFSTN (R146, R147) -/

/-- The owner of a station record. -/
def ownerOf (x : Option Station) : Option MoverNo := x.bind Station.owner

/-- The command deletes the owned station, or changes its TYPE or its LINE (R146 test 5). -/
def breaksOwner (old : Option Station) (a : Option StationArgs) : Bool :=
  match old with
  | none => false
  | some x =>
    x.owner.isSome &&
      match a with
      | none => true
      | some a => a.type != x.type || a.line != x.line

/-- Another station on the line has the address (R146 test 6). -/
def State.addressTaken (s : State) (st : StationNo) (a : StationArgs) : Bool :=
  allStations.any fun o =>
    o != st &&
      match s.stn o with
      | some x => x.line == a.line && x.addr == a.addr
      | none => false

/-- The stations of the line other than station n. -/
def State.othersOnLine (s : State) (st : StationNo) (l : LineId) : Nat :=
  (allStations.filter fun o => o != st && (s.stn o).any fun x => x.line == l).length

/-- The tests of R146 after RANGE. -/
def State.defstnTests (s : State) (st : StationNo) (a : Option StationArgs) : List (Bool × Reason) :=
  let old := s.stn st
  [((ownerOf old).any fun m => !(s.mv m).atRest, .busy),
   (old.any Station.source, .conflict),
   (breaksOwner old a, .conflict),
   (a.any (s.addressTaken st), .conflict),
   (a.any fun a => decide (Config.stationsPerLine ≤ s.othersOnLine st a.line), .conflict)]

/-- The record that an accepted DEFSTN leaves (R147). -/
def newStation (old : Option Station) (a : StationArgs) : Station :=
  { line := a.line, addr := a.addr, type := a.type, owner := ownerOf old, source := false, health := .stale, misses := 0,
    report := none, image := a.type.freeImage }

/-- The owner's position is unset (R147). -/
def State.unsetOwner (s : State) (x : Option Station) : State :=
  match ownerOf x with
  | some m => s.modMv m fun y => { y with positionUnset := true }
  | none => s

/-- Every request for station n is discarded and an exchange with it is abandoned on line l, which goes on with its round
(R147; DEDUCED, log entry 11). The SERVICE notices go before a LINE OVERRUN (DEDUCED, log entry 32). -/
def State.abandonStation (s : State) (l : LineId) (st : StationNo) : State :=
  let mine (r : ServiceRequest) : Bool := r.station == st
  let inFlight := (s.line l).servicing mine
  let s := s.discardRequests l mine
  if inFlight then s.endRound l
  else if (s.line l).phase == .exchange st then s.continueRound l st
  else s

/-- An accepted DEFSTN (R147). -/
def State.defineStation (s : State) (st : StationNo) (a : Option StationArgs) : State :=
  let old := s.stn st
  let s := (s.setStn st (a.map (newStation old))).unsetOwner old
  match old with
  | some x => s.abandonStation x.line st
  | none => s

/-- DEFSTN. -/
def actDefstn : Act := fun fs s => do
  let (st, a) ← parseDefstn fs
  firstFailing (s.defstnTests st a)
  return (s.defineStation st a,
    { fields := [fieldNat "ST" st.val, fieldWord "STATE" (if a.isSome then "STALE" else "UNUSED")] })

/-- DEFSTN (R146, R147). -/
def execDefstn (ln : CommandLine) (s : State) : Host.Outcome State Fault Refusal :=
  s.whileRunning fun s => s.executeLine "DEFSTN" ln actDefstn

/-! ## SERVICE (R157) -/

/-- The line of a station, absent while the station is UNUSED. -/
def State.lineOf (s : State) (st : StationNo) : Option LineId := (s.stn st).map Station.line

/-- The tests of R157 after RANGE. -/
def State.serviceTests (s : State) (st : StationNo) : List (Bool × Reason) :=
  [((s.lineOf st).isNone, .undefined),
   ((s.lineOf st).any fun l => !(s.line l).polling, .conflict),
   ((s.lineOf st).any fun l => decide (Config.serviceQueueSize ≤ (s.line l).queue.length), .queueFull)]

/-- An accepted SERVICE: the next identifier, and the tail of the line's queue (R157). -/
def State.queueService (s : State) (a : ServiceArgs) : State :=
  match s.lineOf a.station with
  | none => s
  | some l =>
    let r : ServiceRequest := { id := s.serviceId, station := a.station, write := a.write, par := a.par, val := a.val }
    { s with serviceId := s.serviceId + 1 }.modLine l fun c => { c with queue := c.queue ++ [r] }

/-- SERVICE. -/
def actService : Act := fun fs s => do
  let a ← parseService fs
  firstFailing (s.serviceTests a.station)
  return (s.queueService a, { fields := [fieldNat "ID" s.serviceId.toNat] })

/-- SERVICE (R157). -/
def execService (ln : CommandLine) (s : State) : Host.Outcome State Fault Refusal :=
  s.whileRunning fun s => s.executeLine "SERVICE" ln actService

/-! ## LINESTAT and STNSTAT (R159) -/

/-- An entry of STNS=. -/
def State.stationEntry (s : State) (l : LineId) (st : StationNo) : Option Text :=
  match s.stn st with
  | some x =>
    if x.line == l then some (joinText '/' [stationText st, natText x.addr, x.health.word.toList]) else none
  | none => none

/-- SVCID=: the identifier of the service in flight, or NONE. -/
def LineCtl.inFlightText (c : LineCtl) : Text :=
  match c.phase with
  | .serviceExchange r => natText r.id.toNat
  | _ => "NONE".toList

/-- LINESTAT. -/
def actLinestat : Act := fun fs s => do
  let l ← parseLinestat fs
  let c := s.line l
  return (s,
    { fields :=
        s.lineFields l ++
        [fieldNat "ROUND" c.round.toNat, fieldText "OVR" (flagText c.overrun), fieldNat "SVCQ" c.queue.length,
         fieldText "SVCID" c.inFlightText, fieldText "STNS" (listOrNone (allStations.filterMap (s.stationEntry l)))] })

/-- LINESTAT (R159). -/
def execLinestat (ln : CommandLine) (s : State) : Host.Outcome State Fault Refusal :=
  s.whileRunning fun s => s.executeLine "LINESTAT" ln actLinestat

/-- The fields of STNSTAT (R159). -/
def stationFields (st : StationNo) : Option Station → List OutField
  | none => [fieldNat "ST" st.val, fieldWord "STATE" "UNUSED"]
  | some x =>
    [fieldNat "ST" st.val, fieldText "LINE" (lineWord x.line), fieldNat "ADDR" x.addr, fieldWord "TYPE" x.type.word,
     fieldText "OWNER" (moverOrNone x.owner), fieldText "SRC" (flagText x.source), fieldWord "STATE" x.health.word,
     fieldNat "MISS" x.misses, fieldText "RT" (orAbsent (fun r : StoredReport => natText r.time.toNat) x.report),
     fieldText "REP"
      (match x.report with
       | some r => r.report.text
       | none => "NONE".toList),
     fieldText "ORD" x.image.text]

/-- STNSTAT. -/
def actStnstat : Act := fun fs s => do
  let st ← parseStnstat fs
  return (s, { fields := stationFields st (s.stn st) })

/-- STNSTAT (R159). -/
def execStnstat (ln : CommandLine) (s : State) : Host.Outcome State Fault Refusal :=
  s.whileRunning fun s => s.executeLine "STNSTAT" ln actStnstat

end Sys2Proof.Machine
end

