-- ==== Sys2Proof/Machine/VerbsPool.lean ====
section
/-! DEFINITION. The verbs of the Segment Pool (02): STAGE, FLUSH, LOGREAD, POOLSTAT. -/

namespace Sys2Proof.Machine

/-! ## STAGE (R38 to R40) -/

/-- The tests of R39 after RANGE. -/
def State.stageTests (s : State) (m : MoverNo) : List (Bool × Reason) :=
  [(!(s.mv m).configured, .undefined),
   (s.pool.free.isEmpty, .poolEmpty),
   (decide ((s.mv m).cfg.cap ≤ (s.mv m).chain.length), .chainFull)]

/-- An accepted STAGE: the slot joins the chain's tail, and where it becomes the look-ahead its path is put to the Clearance Table
(R34, R40, R116). -/
def State.stageSegment (s : State) (m : MoverNo) (mo : Motion) : State :=
  let first := (s.mv m).chain.isEmpty
  let s := s.placeSegment m mo .staged
  if first then s.requestPath m (s.mv m).lookaheadPath else s

/-- STAGE. -/
def actStage : Act := fun fs s => do
  let (m, mo) ← parseMotion fs
  firstFailing (s.stageTests m)
  let seg := makeSegment (s.mv m).cfg m (s.pool.free.headD 0) mo .staged
  let s := s.stageSegment m mo
  return (s,
    { clamps := seg.clamps
      fields :=
        [fieldNat "SLOT" seg.slot.val, fieldNat "CHAIN" (s.mv m).chain.length, fieldNat "FREE" s.pool.free.length] })

/-- STAGE (R34, R38, R39, R40, R45). -/
def execStage (ln : CommandLine) (s : State) : Host.Outcome State Fault Refusal :=
  s.whileRunning fun s => s.executeLine "STAGE" ln actStage

/-! ## FLUSH (R48) -/

/-- FLUSH. -/
def actFlush : Act := fun fs s => do
  let m ← parseMover fs
  firstFailing [(!(s.mv m).configured, .undefined)]
  return (s.flushChain m, { fields := [fieldNat "FLUSHED" (s.mv m).chain.length] })

/-- FLUSH (R48). -/
def execFlush (ln : CommandLine) (s : State) : Host.Outcome State Fault Refusal :=
  s.whileRunning fun s => s.executeLine "FLUSH" ln actFlush

/-! ## LOGREAD (R51, R52) -/

/-- The oldest k records leave the log, their slots join the free list, and the threshold test is made (R51). -/
def State.readLog (s : State) (k : Nat) : State :=
  { s with
    pool :=
      { s.pool with
        free := freeSlots s.pool.free (s.pool.log.take k)
        log := s.pool.log.drop k } }.thresholdTest

/-- LOGREAD. -/
def actLogread : Act := fun fs s => do
  let k ← parseLogread fs
  let rs := s.pool.log.take k
  let s := s.readLog k
  return (s,
    { fields :=
        fieldNat "N" rs.length :: fieldNat "LEFT" s.pool.log.length :: rs.map fun r => fieldText "REC" r.text })

/-- LOGREAD (R51, R52, R53). -/
def execLogread (ln : CommandLine) (s : State) : Host.Outcome State Fault Refusal :=
  s.whileRunning fun s => s.executeLine "LOGREAD" ln actLogread

/-! ## POOLSTAT (R54) -/

/-- The slots PENDING. -/
def State.pendingSlots (s : State) : Nat := (allMovers.map fun m => (s.mv m).chain.length).sum

/-- The slots EXECUTING. -/
def State.executingSlots (s : State) : Nat := (allMovers.filter fun m => (s.mv m).exec.isSome).length

/-- A value of each mover in order, with a minus sign for an UNCONFIGURED one. -/
def State.eachMover (s : State) (f : MoverNo → Nat) : Text :=
  joinText ',' (allMovers.map fun m => if (s.mv m).configured then natText (f m) else absent)

/-- POOLSTAT. -/
def actPoolstat : Act := fun fs s => do
  parseNothing fs
  return (s,
    { fields :=
        [fieldNat "FREE" s.pool.free.length, fieldNat "PEND" s.pendingSlots, fieldNat "EXEC" s.executingSlots,
         fieldNat "LOG" s.pool.log.length, fieldText "CHAINS" (s.eachMover fun m => (s.mv m).chain.length),
         fieldNat "LOGTHR" s.notices.logThreshold] })

/-- POOLSTAT (R54). -/
def execPoolstat (ln : CommandLine) (s : State) : Host.Outcome State Fault Refusal :=
  s.whileRunning fun s => s.executeLine "POOLSTAT" ln actPoolstat

end Sys2Proof.Machine
end

