-- ==== Sys2Proof/Machine/VerbsPower.lean ====
section
/-! DEFINITION. The verbs of the Power Arbiter (05): SETPOWER, POWERSTAT. -/

namespace Sys2Proof.Machine

/-! ## SETPOWER (R104, R105) -/

/-- Mode first, then budget; a raised budget runs the arbitration (R104, R105). -/
def State.setPower (s : State) (budget : Option Nat) (mode : Option PowerMode) : State :=
  let raised := budget.any fun b => decide (s.power.budget < b)
  let s := { s with power := { s.power with mode := mode.getD s.power.mode, budget := budget.getD s.power.budget } }
  if raised then s.arbitrate else s

/-- SETPOWER. -/
def actSetpower : Act := fun fs s => do
  let (budget, mode) ← parseSetpower fs
  firstFailing [(budget.any fun b => decide (b < s.grantedSum), .budgetInUse)]
  let s := s.setPower budget mode
  return (s,
    { fields :=
        [fieldNat "BUDGET" s.power.budget, fieldWord "MODE" s.power.mode.word, fieldNat "USED" s.grantedSum,
         fieldNat "FREE" s.freeBudget] })

/-- SETPOWER (R104, R105). -/
def execSetpower (ln : CommandLine) (s : State) : Host.Outcome State Fault Refusal :=
  s.whileRunning fun s => s.executeLine "SETPOWER" ln actSetpower

/-! ## POWERSTAT (R107) -/

/-- An entry of WAIT=. -/
def PowerRequest.text (e : PowerRequest) : Text := joinText '/' [moverText e.mover, natText e.req, natText e.min]

/-- POWERSTAT. HEAD, absent in ROTATE, is left out of the reply there (DEDUCED, log entry 41). -/
def actPowerstat : Act := fun fs s => do
  parseNothing fs
  return (s,
    { fields :=
        [fieldNat "BUDGET" s.power.budget, fieldWord "MODE" s.power.mode.word, fieldNat "USED" s.grantedSum,
         fieldNat "FREE" s.freeBudget, fieldText "GRANTS" (s.eachMover s.grant),
         fieldText "WAIT" (listOrNone (s.power.waiting.map PowerRequest.text))] ++
        (if s.power.mode == .priority then [fieldText "HEAD" (moverOrNone (s.powerHead.map PowerRequest.mover))] else []) ++
        [fieldText "ROT" (moverText s.power.pointer)] })

/-- POWERSTAT (R107). -/
def execPowerstat (ln : CommandLine) (s : State) : Host.Outcome State Fault Refusal :=
  s.whileRunning fun s => s.executeLine "POWERSTAT" ln actPowerstat

end Sys2Proof.Machine
end

