-- ==== Sys2Proof/Machine/VerbsRules.lean ====
section
/-! DEFINITION. The verbs of the Clearance Table (06): DEFRULE, RULESTAT. -/

namespace Sys2Proof.Machine

/-! ## DEFRULE (R110, R111) -/

/-- The rule that the operands describe, in its initial state from the two movers' p (R110). -/
def State.newRule (s : State) (a : RuleArgs) : Rule :=
  let r : Rule :=
    { g := a.g, zlo := a.zlo, zhi := a.zhi, k := a.k, rlo := a.rlo, rhi := a.rhi, state := .free, waiting := [] }
  if !r.inRegion (s.mv a.k).p then { r with state := .released }
  else if r.inZone (s.mv a.g).p then { r with state := .held }
  else r

/-- Rule Cn is defined and is not OPEN. -/
def State.ruleTaken (s : State) (c : RuleNo) : Bool := (s.rule c).any fun r => r.state != .free

/-- The tests of R110 after RANGE. -/
def State.defruleTests (s : State) (c : RuleNo) (a : RuleArgs) : List (Bool × Reason) :=
  [(a.g == a.k, .conflict),
   (!(s.mv a.g).configured || !(s.mv a.k).configured, .undefined),
   (s.ruleTaken c, .busy),
   (!(s.mv a.g).atRest || !(s.mv a.k).atRest, .busy),
   ((s.mv a.g).positionUnset || (s.mv a.k).positionUnset, .feedback),
   ((s.newRule a).inZone (s.mv a.g).p && !(s.newRule a).inRegion (s.mv a.k).p, .conflict)]

/-- DEFRULE. -/
def actDefrule : Act := fun fs s => do
  let (c, a) ← parseDefrule fs
  match a with
  | none =>
    firstFailing [(s.ruleTaken c, .busy)]
    return (s.setRule c none, { fields := [fieldNat "C" c.val, fieldWord "STATE" "NONE"] })
  | some a =>
    firstFailing (s.defruleTests c a)
    let r := s.newRule a
    return (s.setRule c (some r), { fields := [fieldNat "C" c.val, fieldWord "STATE" r.state.word] })

/-- DEFRULE (R110, R111). -/
def execDefrule (ln : CommandLine) (s : State) : Host.Outcome State Fault Refusal :=
  s.whileRunning fun s => s.executeLine "DEFRULE" ln actDefrule

/-! ## RULESTAT (R124) -/

/-- An entry of WAIT=: mover/CLAIM or mover/RELEASE. -/
def Rule.waiterText (r : Rule) (m : MoverNo) : Text :=
  joinText '/' [moverText m, (if r.g == m then "CLAIM" else "RELEASE").toList]

/-- The fields of one rule. -/
def ruleFields (c : RuleNo) : Option Rule → List OutField
  | none => [fieldNat "C" c.val, fieldWord "STATE" "NONE"]
  | some r =>
    [fieldNat "C" c.val, fieldNat "G" r.g.val, fieldNat "ZLO" r.zlo, fieldNat "ZHI" r.zhi, fieldNat "K" r.k.val,
     fieldNat "RLO" r.rlo, fieldNat "RHI" r.rhi, fieldWord "STATE" r.state.word, fieldText "HOLDER" (moverOrNone r.holder),
     fieldText "WAIT" (listOrNone (r.waiting.map r.waiterText))]

/-- The entries of RULES=. -/
def State.ruleEntries (s : State) : List Text :=
  allRules.filterMap fun c =>
    (s.rule c).map fun r => joinText '/' [ruleText c, r.state.word.toList, moverOrNone r.holder]

/-- RULESTAT. -/
def actRulestat : Act := fun fs s => do
  let c ← parseRulestat fs
  match c with
  | some c => return (s, { fields := ruleFields c (s.rule c) })
  | none => return (s, { fields := [fieldText "RULES" (listOrNone s.ruleEntries)] })

/-- RULESTAT (R124). -/
def execRulestat (ln : CommandLine) (s : State) : Host.Outcome State Fault Refusal :=
  s.whileRunning fun s => s.executeLine "RULESTAT" ln actRulestat

end Sys2Proof.Machine
end

