-- ==== Sys2Proof/Machine/VerbsWeather.lean ====
section
/-! DEFINITION. The verbs of the Weather Monitor (07): SETWX, SETPLAN, SETTRIG, WXSTAT. -/

namespace Sys2Proof.Machine

/-! ## SETWX (R127) -/

/-- The station is not of type WEATHER. -/
def State.notWeather (s : State) (st : StationNo) : Bool := (s.stn st).any fun x => x.type != .weather

/-- The tests of R127 after RANGE. -/
def State.setwxTests (s : State) (src : List StationNo) : List (Bool × Reason) :=
  [(src.any fun st => (s.stn st).isNone, .undefined),
   (src.any s.notWeather || !decide src.Nodup, .conflict)]

/-- The source marks are set at the stations named and at no other (R145). -/
def State.markSources (s : State) (src : List StationNo) : State :=
  allStations.foldl (fun s st => s.modStn st fun x => { x with source := src.contains st }) s

/-- An accepted SETWX (R127). -/
def State.setWx (s : State) (src : List StationNo) (t : WxThresholds) : State :=
  let had := !s.liveSources.isEmpty
  let s := s.markSources src
  let s := { s with wx := { s.wx with sources := src, thresholds := some t } }.formFigure
  let s := if had && s.liveSources.isEmpty then s.raise .noSource else s
  (s.holdAtSetwx t).formDerate

/-- SETWX. -/
def actSetwx : Act := fun fs s => do
  let (src, t) ← parseSetwx fs
  firstFailing (s.setwxTests src)
  let s := s.setWx src t
  return (s, { fields := [fieldWord "HOLD" s.wx.hold.word, fieldNat "W" s.wx.derate] })

/-- SETWX (R127). -/
def execSetwx (ln : CommandLine) (s : State) : Host.Outcome State Fault Refusal :=
  s.whileRunning fun s => s.executeLine "SETWX" ln actSetwx

/-! ## SETPLAN and SETTRIG (R135, R136) -/

/-- The plan is set, or deleted with the pending trigger flag (R135). -/
def State.setPlan (s : State) (m : MoverNo) (plan : Option Motion) : State :=
  s.modTrig m fun t => { t with plan := plan, pendingFlag := t.pendingFlag && plan.isSome }

/-- SETPLAN. -/
def actSetplan : Act := fun fs s => do
  let (m, plan) ← parseSetplan fs
  firstFailing [(!(s.mv m).configured, .undefined)]
  let tag := match plan with
    | some p => natText p.tag
    | none => "NONE".toList
  return (s.setPlan m plan, { fields := [fieldNat "M" m.val, fieldText "TAG" tag] })

/-- SETPLAN (R135, R139). -/
def execSetplan (ln : CommandLine) (s : State) : Host.Outcome State Fault Refusal :=
  s.whileRunning fun s => s.executeLine "SETPLAN" ln actSetplan

/-- The trigger mask of one mover is set; masking clears the pending trigger flag (R136). -/
def State.setMask (mask : Bool) (s : State) (m : MoverNo) : State :=
  s.modTrig m fun t => { t with masked := mask, pendingFlag := t.pendingFlag && !mask }

/-- SETTRIG. -/
def actSettrig : Act := fun fs s => do
  let (m, mask) ← parseSettrig fs
  let ms := match m with
    | some m => [m]
    | none => s.configuredMovers
  firstFailing [(ms.any fun m => !(s.mv m).configured, .undefined)]
  let name := match m with
    | some m => natText m.val
    | none => "ALL".toList
  return (ms.foldl (State.setMask mask) s, { fields := [fieldText "M" name, fieldText "MASK" (flagText mask)] })

/-- SETTRIG (R136, R139). -/
def execSettrig (ln : CommandLine) (s : State) : Host.Outcome State Fault Refusal :=
  s.whileRunning fun s => s.executeLine "SETTRIG" ln actSettrig

/-! ## WXSTAT (R140) -/

/-- An entry of SRC=: NONE for a source that never reported, else its station's state (DEDUCED, log entry 19). -/
def State.sourceText (s : State) (st : StationNo) : Text :=
  let w := match s.stn st with
    | some x => if x.report.isNone then "NONE" else x.health.word
    | none => "NONE"
  joinText '/' [stationText st, w.toList]

/-- An entry of PLANS=. -/
def State.planText (s : State) (m : MoverNo) : Option Text :=
  (s.trig m).plan.map fun p =>
    joinText '/' [moverText m, natText p.tag, flagText (s.trig m).masked, flagText (s.trig m).pendingFlag]

/-- W1, W2, GH and REL. -/
def thresholdFields (t : Option WxThresholds) : List OutField :=
  [fieldText "W1" (orAbsent (fun t : WxThresholds => natText t.w1) t),
   fieldText "W2" (orAbsent (fun t : WxThresholds => natText t.w2) t),
   fieldText "GH" (orAbsent (fun t : WxThresholds => natText t.gh) t),
   fieldText "REL" (orAbsent (fun t : WxThresholds => natText t.rel) t)]

/-- WXSTAT (R140). Outside RELEASING the field RELLEFT is left out (DEDUCED, log entry 41). -/
def actWxstat : Act := fun fs s => do
  parseNothing fs
  return (s,
    { fields :=
        [fieldText "SRC" (listOrNone (s.wx.sources.map s.sourceText)), fieldNat "LIVE" s.liveSources.length] ++
        figureFields s.wx.figure ++ [fieldNat "W" s.wx.derate] ++ thresholdFields s.wx.thresholds ++
        [fieldWord "HOLD" s.wx.hold.word] ++
        (if s.wx.hold == .releasing then [fieldNat "RELLEFT" (s.wx.releaseTimer.getD 0)] else []) ++
        [fieldWord "RAIN" (rainWord s.wx.wet),
         fieldText "PLANS" (listOrNone (s.configuredMovers.filterMap s.planText))] })

/-- WXSTAT (R140). -/
def execWxstat (ln : CommandLine) (s : State) : Host.Outcome State Fault Refusal :=
  s.whileRunning fun s => s.executeLine "WXSTAT" ln actWxstat

end Sys2Proof.Machine
end

