-- ==== Sys2Proof/Machine/Dispatch.lean ====
section
/-! DEFINITION. The dispatch: one arm per command, each one direct call of its meaning. -/

namespace Sys2Proof.Machine

def exec (i : Instr) (s : State) : Host.Outcome State Fault Refusal :=
  match i with
  | .powerOn resetLow stopOpen baudHigh => Sys2Proof.Machine.execPowerOn resetLow stopOpen baudHigh s
  | .resetAssert => Sys2Proof.Machine.execResetAssert s
  | .resetRelease baudHigh => Sys2Proof.Machine.execResetRelease baudHigh s
  | .stopinOpening => Sys2Proof.Machine.execStopinOpening s
  | .stopinClosing => Sys2Proof.Machine.execStopinClosing s
  | .lineReceived line => Sys2Proof.Machine.execLineReceived line s
  | .unknownVerb verb ln => Sys2Proof.Machine.execUnknownVerb verb ln s
  | .defmover ln => Sys2Proof.Machine.execDefmover ln s
  | .go ln => Sys2Proof.Machine.execGo ln s
  | .hold ln => Sys2Proof.Machine.execHold ln s
  | .resume ln => Sys2Proof.Machine.execResume ln s
  | .stop ln => Sys2Proof.Machine.execStop ln s
  | .estop ln => Sys2Proof.Machine.execEstop ln s
  | .ackfault ln => Sys2Proof.Machine.execAckfault ln s
  | .moverstat ln => Sys2Proof.Machine.execMoverstat ln s
  | .stage ln => Sys2Proof.Machine.execStage ln s
  | .flush ln => Sys2Proof.Machine.execFlush ln s
  | .logread ln => Sys2Proof.Machine.execLogread ln s
  | .poolstat ln => Sys2Proof.Machine.execPoolstat ln s
  | .setpower ln => Sys2Proof.Machine.execSetpower ln s
  | .powerstat ln => Sys2Proof.Machine.execPowerstat ln s
  | .defrule ln => Sys2Proof.Machine.execDefrule ln s
  | .rulestat ln => Sys2Proof.Machine.execRulestat ln s
  | .setwx ln => Sys2Proof.Machine.execSetwx ln s
  | .setplan ln => Sys2Proof.Machine.execSetplan ln s
  | .settrig ln => Sys2Proof.Machine.execSettrig ln s
  | .wxstat ln => Sys2Proof.Machine.execWxstat ln s
  | .defline ln => Sys2Proof.Machine.execDefline ln s
  | .defstn ln => Sys2Proof.Machine.execDefstn ln s
  | .service ln => Sys2Proof.Machine.execService ln s
  | .linestat ln => Sys2Proof.Machine.execLinestat ln s
  | .stnstat ln => Sys2Proof.Machine.execStnstat ln s
  | .supervise ln => Sys2Proof.Machine.execSupervise ln s
  | .beat ln => Sys2Proof.Machine.execBeat ln s
  | .linkstat ln => Sys2Proof.Machine.execLinkstat ln s
  | .clearall ln => Sys2Proof.Machine.execClearall ln s
  | .setnote ln => Sys2Proof.Machine.execSetnote ln s
  | .transmitLineEnd => Sys2Proof.Machine.execTransmitLineEnd s
  | .supervisionTimerExpiry => Sys2Proof.Machine.execSupervisionTimerExpiry s
  | .linePeriodExpiry l => Sys2Proof.Machine.execLinePeriodExpiry l s
  | .frameReceived l f => Sys2Proof.Machine.execFrameReceived l f s
  | .responseTimeout l => Sys2Proof.Machine.execResponseTimeout l s
  | .serviceReplyReceived l f => Sys2Proof.Machine.execServiceReplyReceived l f s
  | .serviceTimeout l => Sys2Proof.Machine.execServiceTimeout l s
  | .trackSetComplete m => Sys2Proof.Machine.execTrackSetComplete m s
  | .holdReasonAddition m r => Sys2Proof.Machine.execHoldReasonAddition m r s
  | .holdReasonRemoval m r => Sys2Proof.Machine.execHoldReasonRemoval m r s
  | .tlockExpiry m => Sys2Proof.Machine.execTlockExpiry m s
  | .tbrkExpiry m => Sys2Proof.Machine.execTbrkExpiry m s
  | .tstopExpiry m => Sys2Proof.Machine.execTstopExpiry m s
  | .dwellExpiry m => Sys2Proof.Machine.execDwellExpiry m s
  | .alignTimerExpiry m => Sys2Proof.Machine.execAlignTimerExpiry m s
  | .reportArrival st => Sys2Proof.Machine.execReportArrival st s
  | .sourceLoss st => Sys2Proof.Machine.execSourceLoss st s
  | .releaseTimerExpiry => Sys2Proof.Machine.execReleaseTimerExpiry s
  | .triggerFiring m => Sys2Proof.Machine.execTriggerFiring m s
  | .characterArrival c => Sys2Proof.Machine.execCharacterArrival c s

end Sys2Proof.Machine
end

