-- ==== Sys2Proof/Safety.lean ====
section
/-! DEFINITION. What the claims speak of: the invariants of the manual, and runs that do not stop. -/

namespace Sys2Proof.Machine

/-- A class queue holds at most 16 notices (R178). -/
def ClassQueue.bounded (q : ClassQueue) : Prop := q.queue.length ≤ Config.noticeQueueSize

/-- Every class queue of the Notice Unit holds at most 16 notices (R178). -/
def NoticeUnit.bounded (n : NoticeUnit) : Prop :=
  n.safety.bounded ∧ n.motion.bounded ∧ n.weather.bounded ∧ n.line.bounded

/-- The bounds of the link port: the input buffer (R164), the error count (R163), the replies that wait (R169). -/
structure LinkPort.Bounded (p : LinkPort) : Prop where
  buffer : p.inputBuffer.length ≤ Config.inputBufferSize
  errors : p.errors ≤ Config.linkErrorLimit
  fullReplies : (p.replies.filter Reply.full).length ≤ Config.fullReplyLimit
  execReplies : (p.replies.filter fun r => !r.full).length ≤ 1

/-- The service queue of a line holds at most 4 requests (R142). -/
def LineCtl.bounded (c : LineCtl) : Prop := c.queue.length ≤ Config.serviceQueueSize

/-- The sum of all movers' grants does not exceed the traction budget (R93). -/
def State.powerSound (s : State) : Prop := s.grantedSum ≤ s.power.budget

/-- Mover m has no hold reason, and on the lists of the rules that name it none stands but itself, and only where it does not have the
rule: no opening test of m wakes a mover. -/
def State.wakesNone (s : State) (m : MoverNo) : Prop :=
  (s.mv m).holdSet = {} ∧
    ∀ c u, s.rule c = some u → u.g = m ∨ u.k = m → ∀ w ∈ u.waiting, w = m ∧ u.has m = false

/-- The slots a mover carries: its executing segment's, and its chain's. -/
def Mover.slots (x : Mover) : List SlotNo :=
  (x.exec.map fun e => e.seg.slot).toList ++ x.chain.map Segment.slot

/-- The slots of the four places together: free list, chains, executing places, completion log (R31). -/
def State.slots (s : State) : List SlotNo :=
  s.pool.free ++ (allMovers.flatMap fun m => (s.mv m).slots) ++ s.pool.log.map fun r => r.seg.slot

/-- Each of the 256 slots is in exactly one of the four places (R31). -/
def State.poolSound (s : State) : Prop := s.slots.Perm (List.finRange 256)

/-- The pending count of a mover is at most its CAP, which is at least 1 (R33). -/
def Mover.chainSound (x : Mover) : Prop := x.chain.length ≤ x.cfg.cap ∧ 1 ≤ x.cfg.cap

/-- No mover's pending chain holds more segments than its CAP (R33). -/
def State.chainsSound (s : State) : Prop := ∀ m, (s.mv m).chainSound

/-- The service queues of both lines hold at most 4 requests each (R142). -/
def State.queuesSound (s : State) : Prop := s.lineA.bounded ∧ s.lineB.bounded

/-- The mover stands on no waiting list: not on the arbiter's (R93), nor on that of a clearance rule (R109). -/
def State.spared (s : State) (m : MoverNo) : Prop :=
  s.isWaiting m = false ∧ ∀ c r, s.rule c = some r → m ∉ r.waiting

/-- The lists and the grants agree with the movers' states: the arbiter's list holds each mover at most once, and only in AWAIT_POWER
(R93); a grant is held only in UNLOCKING, RELEASING, RUNNING or HOLDING (R96); a rule's list holds only movers in AWAIT_POWER to HELD
(R118); the two movers of a rule are not the same (R109). -/
structure State.listsSound (s : State) : Prop where
  once : (s.power.waiting.map PowerRequest.mover).Nodup
  waiting : ∀ e ∈ s.power.waiting, (s.mv e.mover).state = .awaitPower
  granted : ∀ m, s.grant m ≠ 0 → (s.mv m).state.holdsGrant = true
  rules : ∀ c r, s.rule c = some r → ∀ m ∈ r.waiting, (s.mv m).state.recordsHold = true
  distinct : ∀ c r, s.rule c = some r → r.g ≠ r.k

/-- A station that a mover's record names carries that mover as its owner: a track is of type DRIVE, the lock station of type LOCK (R3,
R4). So no station is named by two movers, or as a track and as a lock station. -/
structure State.stationsSound (s : State) : Prop where
  tracks : ∀ m, ∀ st ∈ (s.mv m).cfg.tracks, ∃ x, s.stn st = some x ∧ x.type = .drive ∧ x.owner = some m
  locks : ∀ m st, (s.mv m).cfg.lockst = some st → ∃ x, s.stn st = some x ∧ x.type = .lock ∧ x.owner = some m

/-- A mover in AWAIT_POWER has an entry on the arbiter's list (R93). -/
def State.requestsWait (s : State) : Prop := ∀ m, (s.mv m).state = .awaitPower → s.isWaiting m = true

/-- The commanded position lies within the travel (R8); a mover outside AWAIT_POWER to HELD, and one whose position is unset, executes
nothing (R33, R9); and the target of an executing MOVE does not lie behind p (R61). -/
structure Mover.travelSound (x : Mover) : Prop where
  travel : ∀ r, x.record = some r → r.lo < r.hi ∧ r.loUm ≤ x.p ∧ x.p ≤ r.hiUm
  executes : x.exec.isSome = true → x.state.recordsHold = true ∧ x.positionUnset = false
  ahead : ∀ e d target v a b, x.exec = some e → e.part.dir = some d → e.seg.kind = .move target v a b →
    0 ≤ d.sign * (x.targetUsed target - x.p)

/-- Every mover's position is within its travel, and its executing MOVE leads nowhere else. -/
def State.travelSound (s : State) : Prop := ∀ m, (s.mv m).travelSound

/-- A mover taken to STOPPING (R21): v at 0, p and the chain kept, nothing executing, the set empty, only TSTOP running. -/
structure Mover.stoppedFrom (x y : Mover) : Prop where
  state : y.state = .stopping
  record : y.record = x.record
  v : y.v = 0
  residue : y.residue = 0
  p : y.p = x.p
  chain : y.chain = x.chain
  exec : y.exec = none
  holdSet : y.holdSet = {}
  stop : y.stopInProgress = false
  brakes : y.brakeOrdered = false
  tlock : y.tlock = none
  tbrk : y.tbrk = none
  align : y.alignLeft = none
  tstop : y.tstop = some x.cfg.tstop

/-- A mover taken to FAULT with a primary and a secondary set (R23, R26, R27). -/
structure Mover.faultedFrom (x y : Mover) (k : FaultKind) (others : List FaultKind) (time : Time) : Prop where
  state : y.state = .fault
  fault : y.fault = some { primary := k, time := time, p := x.p, mean := x.mean, secondary := others, stopComplete := false }
  record : y.record = x.record
  v : y.v = 0
  residue : y.residue = 0
  p : y.p = x.p
  chain : y.chain = x.chain
  exec : y.exec = none
  holdSet : y.holdSet = {}
  stop : y.stopInProgress = false
  tlock : y.tlock = none
  tbrk : y.tbrk = none
  align : y.alignLeft = none
  tstop : y.tstop = some x.cfg.tstop

/-- The record that logs an executing segment (R37, R46): of one that never entered RUNNING, a peak skew of 0 and DERATED no (log
entry 34). -/
def Mover.logRecord (x : Mover) (e : Executing) (o : SegOutcome) (k : Option FaultKind) (time : Time) : LogRecord :=
  { seg := e.seg
    part := some (if e.part.startTime.isSome then e.part else { e.part with peakSkew := 0, derated := false })
    outcome := o, endTime := time, endPos := x.mean, faultKind := k }

/-- The record that the emergency stop logs: the executing segment's, CUT (R21, R46). -/
def Mover.cutRecord (x : Mover) (time : Time) : List LogRecord := (x.exec.map fun e => x.logRecord e .cut none time).toList

/-- The record that logs a pending segment FLUSHED (R46). -/
def flushedRecord (time : Time) (g : Segment) : LogRecord :=
  { seg := g, part := none, outcome := .flushed, endTime := time, endPos := none, faultKind := none }

/-- Records join the tail of the completion log, with the threshold test at each (R46, R53): where the arm is set, LOG_READY is sent at the
first count that reaches the threshold, which it carries (model's reading, log entry 36). -/
structure State.logsMore (s t : State) (rs : List LogRecord) : Prop where
  log : t.pool.log = s.pool.log ++ rs
  free : t.pool.free = s.pool.free
  ready : s.pool.logArm = true → rs ≠ [] → s.notices.logThreshold ≤ s.pool.log.length + rs.length →
    t.pool.logArm = false ∧
    t.notices =
      { s.notices with
        motion := s.notices.motion.accept
          ⟨.logReady (max s.notices.logThreshold (s.pool.log.length + 1)), s.timebase⟩ }
  quiet : rs = [] ∨ (s.pool.logArm = true ∧ s.pool.log.length + rs.length < s.notices.logThreshold) ∨
      (s.pool.logArm = false ∧ s.notices.logThreshold ≤ s.pool.log.length) →
    t.pool.logArm = s.pool.logArm ∧ t.notices = s.notices

/-- A station without its order image. -/
def Station.unimaged (x : Station) : Station := { x with image := .weather }

/-- A rule without its state, its waiting list and its refusals. -/
def Rule.definition (r : Rule) : Rule := { r with state := .free, waiting := [], refused := [] }

/-- Trigger settings without the pending flag. -/
def Trigger.settings (t : Trigger) : Trigger := { t with pendingFlag := false }

/-- What no motion of a mover touches: the timebase, the pins, the lines, the link, the tables as the host set them, the reports, the
weather. The completion log and the queues of notices only grow, and events that wait are at most called off. -/
structure MotionFrame (s t : State) : Prop where
  timebase : t.timebase = s.timebase
  pins : t.pins = s.pins
  lineA : t.lineA = s.lineA
  lineB : t.lineB = s.lineB
  serviceId : t.serviceId = s.serviceId
  link : t.link = s.link
  records : ∀ m, (t.mv m).record = (s.mv m).record
  stations : ∀ st, (t.stn st).map Station.unimaged = (s.stn st).map Station.unimaged
  rules : ∀ c, (t.rule c).map Rule.definition = (s.rule c).map Rule.definition
  triggers : ∀ m, (t.trig m).settings = (s.trig m).settings
  weather : { t.wx with triggers := Vector.replicate 8 {} } = { s.wx with triggers := Vector.replicate 8 {} }
  budget : t.power.budget = s.power.budget
  mode : t.power.mode = s.power.mode
  log : s.pool.log <+: t.pool.log
  threshold : t.notices.logThreshold = s.notices.logThreshold
  enabled : ∀ c, (t.notices.get c).enabled = (s.notices.get c).enabled
  notices : ∀ c, (s.notices.get c).queue <+: (t.notices.get c).queue
  posted : t.posted.Sublist s.posted
  pending : t.pending = s.pending

/-! ## The millisecond (R1; what a step does with it, and the order in which it posts what has run out: log entry 2) -/

/-- A timer after a millisecond: less 1 if it runs. -/
def afterMs (timer : Option Nat) : Option Nat := timer.map (· - 1)

/-- The timer runs and reaches 0 within the millisecond. -/
def runsOut (timer : Option Nat) : Bool := timer.any fun n => decide (n ≤ 1)

/-- The dwell time that runs: in RUNNING, that of an executing DWELL that has begun (R36, R76). -/
def Mover.dwellTimer (x : Mover) : Option Nat :=
  match x.state, x.exec with
  | .running, some e =>
    match e.seg.kind with
    | .dwell _ => if e.part.startTime.isSome then some e.part.dwellLeft else none
    | _ => none
  | _, _ => none

/-- The alignment timer, where it runs: in RUNNING with an executing ALIGN (R78, R91). -/
def Mover.alignTimer (x : Mover) : Option Nat :=
  if x.state = .running ∧ x.exec.map (fun e => e.seg.kind) = some .align then x.alignLeft else none

/-- A mover after a millisecond (R25): the timers that run lose 1. -/
def Mover.msLater (x : Mover) : Mover :=
  { x with
    tlock := afterMs x.tlock, tbrk := afterMs x.tbrk, tstop := afterMs x.tstop
    alignLeft := if x.alignTimer.isSome then afterMs x.alignLeft else x.alignLeft
    exec :=
      match x.dwellTimer with
      | some n => x.exec.map fun e => { e with part := { e.part with dwellLeft := n - 1 } }
      | none => x.exec }

/-- A line controller after a millisecond (R148, R149). -/
def LineCtl.msLater (c : LineCtl) : LineCtl := { c with period := afterMs c.period, response := afterMs c.response }

/-- Thousandths of a bit that TXD sends in a millisecond: 57,600 or 115,200 bit/s (R161). -/
def Pins.msBits (p : Pins) : Nat := if p.fastLink then 115200 else 57600

/-- The expiries of the timers that run out within the millisecond, in the order of log entry 2. -/
def State.expiries (s : State) : List Instr :=
  let due (timer : Option Nat) (i : Instr) : List Instr := if runsOut timer then [i] else []
  let ofLine (l : LineId) : List Instr :=
    due (s.line l).response (match (s.line l).phase with | .serviceExchange _ => .serviceTimeout l | _ => .responseTimeout l) ++
      due (s.line l).period (.linePeriodExpiry l)
  let ofMover (m : MoverNo) : List Instr :=
    due (s.mv m).tlock (.tlockExpiry m) ++ due (s.mv m).tbrk (.tbrkExpiry m) ++ due (s.mv m).tstop (.tstopExpiry m) ++
      due (s.mv m).dwellTimer (.dwellExpiry m) ++ due (s.mv m).alignTimer (.alignTimerExpiry m)
  due s.link.sup.timer .supervisionTimerExpiry ++ ofLine .A ++ ofLine .B ++ allMovers.flatMap ofMover ++
    due s.wx.releaseTimer .releaseTimerExpiry

/-! ## The movers -/

/-! ### Order images (R7) -/

/-- The DRIVE image that R7's table gives track i of a mover: in RUNNING, and in HOLDING before the brake order, the track setpoint (R87).
`b` is BRAKE as last written before a stop. -/
def Mover.driveOrder (x : Mover) (i : Nat) (b : BrakeOrder) : Image :=
  let braked : Image := .drive 0 .apply .normal
  let setpoint : Image := .drive (x.signedV + (x.trim.map fun t => t.corrections.getD i 0).getD 0) .release .normal
  let quick : Image := .drive 0 (if x.brakeOrdered then .apply else b) .quick
  match x.state with
  | .unconfigured | .idle | .awaitPower | .held | .stopped | .unlocking | .ending => braked
  | .releasing => .drive 0 .release .normal
  | .running => setpoint
  | .holding => if x.brakeOrdered then braked else setpoint
  | .stopping => quick
  | .fault => if x.fault.any FaultRec.stopComplete then braked else quick

/-- The LOCK image that R7's table gives the lock station of a mover. -/
def Mover.lockOrder (x : Mover) : Image :=
  match x.state with
  | .unlocking | .releasing | .running | .holding => .lock .withdraw
  | .ending => .lock (if x.endLock then .engage else .keep)
  | .unconfigured | .idle | .awaitPower | .held | .stopped | .stopping | .fault => .lock .keep

/-- The tracks of mover m, all different, carry the images of R7 for the state that the mover has in t. BRAKE as last written is that of
the image in s. -/
def State.ordersTracks (s t : State) (m : MoverNo) : Prop :=
  s.stationsSound → (t.mv m).cfg.tracks.Nodup → ∀ i st, (t.mv m).cfg.tracks[i]? = some st →
    (t.stn st).map Station.image = (s.stn st).map fun y => (t.mv m).driveOrder i y.image.brakeOrder

/-- The lock station of mover m carries the image of R7 for the state that the mover has in t. -/
def State.ordersLock (s t : State) (m : MoverNo) : Prop :=
  s.stationsSound → ∀ st, (t.mv m).cfg.lockst = some st →
    (t.stn st).map Station.image = (s.stn st).map fun _ => (t.mv m).lockOrder

/-- The stations of mover m carry the images of R7 for the state that the mover has in t. -/
def State.orders (s t : State) (m : MoverNo) : Prop := s.ordersTracks t m ∧ s.ordersLock t m

/-! ### Waiting for a rule (R118) -/

/-- The rules that a path of mover m needs, that the mover does not have and that refuse it, in number order (R112 to R116). -/
def State.refusers (s : State) (m : MoverNo) (path : Option Path) : List RuleNo :=
  allRules.filter fun c =>
    (s.rule c).any fun u => u.neededBy m path && !u.has m && (s.grantedState u m).isNone

/-- A rule after it has refused mover m, which waits on it at the tail unless it waits there already (R117, R118). -/
def Rule.keepsWaiting (u : Rule) (m : MoverNo) : Rule :=
  { u with
    waiting := if m ∈ u.waiting then u.waiting else u.waiting ++ [m]
    refused := if m ∈ u.refused then u.refused else u.refused ++ [m] }

/-- The notices after rules have refused mover m: for each, in the order given, whose list it was not on, MOTION CLEARANCE_WAIT with the
mover, the rule, NEED (a CLAIM of its G, else a RELEASE) and the mover that has the rule, or none (R118). -/
def State.noticesWait (s : State) (m : MoverNo) (cs : List RuleNo) (n : NoticeUnit) : NoticeUnit :=
  let holder (u : Rule) : Option MoverNo := match u.state with | .free => none | .held => some u.g | .released => some u.k
  { n with
    motion :=
      (cs.filterMap fun c => (s.rule c).bind fun u =>
        if m ∈ u.waiting then none
        else some (Notice.mk (.clearanceWait m c (decide (u.g = m)) (holder u)) s.timebase)).foldl ClassQueue.accept n.motion }

/-- The path that a segment of a kind gives mover x (R112): a MOVE's from its start, or from p, to the target used; the point p of a DWELL
and of an ALIGN that is set up; else the point that the set-up would give p, the mean clamped into travel. -/
def Mover.covers (x : Mover) (k : SegKind) (start : Option Int) (setUp : Bool) : Path :=
  let clamp (y : Int) : Int := max ((x.cfg.lo : Int) * 1000) (min y ((x.cfg.hi : Int) * 1000))
  match k with
  | .move dest _ _ _ =>
    let a := start.getD x.p
    let b := clamp (dest * 1000)
    ⟨min a b, max a b⟩
  | .dwell _ => ⟨x.p, x.p⟩
  | .align =>
    let a := if setUp then x.p else (x.trim.map fun t => clamp t.mean).getD x.p
    ⟨a, a⟩

/-- The table after mover m has asked, for what a path needs, each rule that it does not have, in rule number order (R115, R116): a rule
that grants takes the state of R113 and R114; on one that refuses the mover waits (R117, R118). -/
def State.asks (s : State) (m : MoverNo) (path : Option Path) : State :=
  { s with
    rules := s.rules.map fun r => r.map fun u =>
      if u.neededBy m path = true ∧ u.has m = false then
        match s.grantedState u m with
        | some st => { u with state := st, refused := u.refused.filter (· ≠ m) }
        | none => u.keepsWaiting m
      else u
    notices := s.noticesWait m (s.refusers m path) s.notices }

/-- The state that the opening test of a mover, at p and with these paths, gives a rule that the mover has; none where it keeps it
(R120). -/
def State.pathsFree (s : State) (m : MoverNo) (p : Int) (paths : List Path) (u : Rule) : Option RuleState :=
  let at' (w : MoverNo) : Int := if w = m then p else (s.mv w).p
  let inZone : Bool := decide ((u.zlo : Int) * 1000 ≤ at' u.g ∧ at' u.g ≤ (u.zhi : Int) * 1000)
  let inRegion : Bool := decide ((u.rlo : Int) * 1000 ≤ at' u.k ∧ at' u.k ≤ (u.rhi : Int) * 1000)
  let noneMeets : Prop := ∀ q ∈ paths, q.hi < (u.zlo : Int) * 1000 ∨ (u.zhi : Int) * 1000 < q.lo
  let noneLeaves : Prop := ∀ q ∈ paths, (u.rlo : Int) * 1000 ≤ q.lo ∧ q.hi ≤ (u.rhi : Int) * 1000
  match u.state with
  | .held => if u.g = m ∧ inZone = false ∧ noneMeets then some (if inRegion then .free else .released) else none
  | .released => if u.k = m ∧ inRegion = true ∧ noneLeaves then some (if inZone then .held else .free) else none
  | .free => none

/-- The table after the opening tests of mover m, for the paths that it has, of rules on whose lists no mover waits (R120, R121). -/
def State.opens (s : State) (m : MoverNo) : State :=
  { s with
    rules := s.rules.map fun r => r.map fun u =>
      match s.pathsFree m (s.mv m).p ((s.mv m).execPath.toList ++ (s.mv m).lookaheadPath.toList) u with
      | some st => { u with state := st, waiting := [] }
      | none => u }

/-- A path that mover m has needs the rule (R112, R116). -/
def State.pathNeeds (s : State) (m : MoverNo) (u : Rule) : Prop :=
  u.neededBy m (s.mv m).execPath = true ∨ u.neededBy m (s.mv m).lookaheadPath = true

/-- The rules on whose waiting lists mover m stands, in number order. -/
def State.listed (s : State) (m : MoverNo) : List RuleNo :=
  allRules.filter fun c => (s.rule c).any fun u => decide (m ∈ u.waiting)

/-- Those of them that neither of its paths needs (R116). -/
def State.stale (s : State) (m : MoverNo) : List RuleNo :=
  (s.listed m).filter fun c =>
    (s.rule c).any fun u => !(u.neededBy m (s.mv m).execPath || u.neededBy m (s.mv m).lookaheadPath)

/-- The table after mover m has left the lists of the rules that neither of its paths needs (R116, R118). -/
def State.leavesStale (s : State) (m : MoverNo) : State :=
  { s with
    rules := s.rules.map fun r => r.map fun u =>
      if u.neededBy m (s.mv m).execPath || u.neededBy m (s.mv m).lookaheadPath then u
      else { u with waiting := u.waiting.filter (· ≠ m) } }

/-- The table after stage 6 of mover m in RUNNING (R116): it leaves lists, and asks for its executing path and then for its look-ahead. -/
def State.stageSix (s : State) (m : MoverNo) : State :=
  ((s.leavesStale m).asks m (s.mv m).execPath).asks m (s.mv m).lookaheadPath

/-- The boundary that a refusing rule gives mover m on its way from p (R117): G's lies one millimetre before the zone, K's on the edge of
the region; p itself where that lies behind. -/
def Rule.boundary (u : Rule) (m : MoverNo) (dir : Dir) (p : Int) : Int :=
  let edge : Int :=
    match dir with
    | .outward => if u.g = m then u.zlo * 1000 - 1000 else u.rhi * 1000
    | .inward => if u.g = m then u.zhi * 1000 + 1000 else u.rlo * 1000
  if dir.sign * (edge - p) < 0 then p else edge

/-- b is a refused clearance boundary of mover m between p and the target (R62, R117): that of a rule which it needs, does not have, and
which has refused its most recent request. -/
def State.refusesAt (s : State) (m : MoverNo) (dir : Dir) (target b : Int) : Prop :=
  (∃ c u, s.rule c = some u ∧ s.pathNeeds m u ∧ u.has m = false ∧ m ∈ u.refused ∧ b = u.boundary m dir (s.mv m).p) ∧
    0 ≤ dir.sign * (b - (s.mv m).p) ∧ 0 < dir.sign * (target - b)

/-- The nearest of those boundaries, if there is one (R62, R63). -/
def State.limitIs (s : State) (m : MoverNo) (dir : Dir) (target : Int) : Option Int → Prop
  | none => ∀ b, ¬s.refusesAt m dir target b
  | some b => s.refusesAt m dir target b ∧ ∀ o, s.refusesAt m dir target o → dir.sign * b ≤ dir.sign * o

/-- The look-ahead of mover m is a MOVE at speed limit v to a target farther on, all of whose needs the mover has (R64). -/
def State.leadsOn (s : State) (m : MoverNo) (dir : Dir) (target : Int) (v : Nat) : Prop :=
  ∃ g rest next a d, (s.mv m).chain = g :: rest ∧ g.kind = .move next v a d ∧
    0 < dir.sign * ((s.mv m).targetUsed next - target) ∧
    ∀ c u, s.rule c = some u → u.neededBy m (s.mv m).lookaheadPath = true → u.has m = true

/-! ### Coming to a state -/

/-- Mover m comes to stand apart: it holds no grant and waits nowhere, its stations carry the images of its state (R7), nothing but the
motion of the movers has happened, and every other mover that waits nowhere is as it was. -/
structure State.settles (s t : State) (m : MoverNo) : Prop where
  frame : MotionFrame s t
  apart : t.spared m
  grant : t.grant m = 0
  orders : s.orders t m
  others : ∀ w, w ≠ m → s.spared w → t.mv w = s.mv w ∧ t.grant w = s.grant w

/-- A mover as it enters IDLE (R10, R13, R18, R78). -/
def Mover.idled (x : Mover) : Mover :=
  { x with
    state := .idle, holdSet := {}, unlocked := false, stopInProgress := false, brakeOrdered := false, skewWarn := false }

/-- A mover as it enters HELD (R10, R15). -/
def Mover.heldFrom (x : Mover) : Mover := { x with state := .held, unlocked := false, brakeOrdered := false }

/-- A mover as it enters RELEASING (R10, R11). -/
def Mover.releasingFrom (x : Mover) : Mover :=
  { x with state := .releasing, unlocked := true, brakeOrdered := false, tbrk := some x.cfg.tbrk }

/-- A mover as it enters UNLOCKING (R10). -/
def Mover.unlockingFrom (x : Mover) : Mover :=
  { x with state := .unlocking, brakeOrdered := false, tlock := some x.cfg.tlock }

/-- A mover as it enters HOLDING with the brake order given (R14, R15). -/
def Mover.brakingFrom (x : Mover) : Mover := { x with state := .holding, brakeOrdered := true, tbrk := some x.cfg.tbrk }

/-- A mover as it enters ENDING after segment g, which has left its executing place (R19). -/
def Mover.endingFrom (x : Mover) (g : Segment) : Mover :=
  { x with
    state := .ending, exec := none, alignLeft := none, holdSet := {}, unlocked := false, brakeOrdered := false
    endBrakeSeen := false, endLockSeen := false, endLock := g.lock && x.cfg.lockst.isSome, tbrk := some x.cfg.tbrk
    tlock := if g.lock = true ∧ x.cfg.lockst ≠ none then some x.cfg.tlock else x.tlock }

/-- The lock needs no withdrawing: there is none, or its last report is WITHDRAWN (R10). -/
def State.lockFree (s : State) (m : MoverNo) : Prop :=
  (s.mv m).cfg.lockst = none ∨ s.lockReport m = some .withdrawn

/-- The request of mover m for a segment of a kind (R94): R = ceil(PRATED × Vseg / VRATED), Vseg the V of a MOVE and else VCREEP; Rmin is
the smaller of ceil(PRATED × VCREEP / VRATED) and R. -/
def Mover.request (x : Mover) (m : MoverNo) (k : SegKind) : PowerRequest :=
  let r := x.cfg
  let share (v : Nat) : Nat := (r.prated * v + r.vrated - 1) / r.vrated
  let req := share (match k with | .move _ v _ _ => v | _ => r.vcreep)
  { mover := m, req := req, min := min (share r.vcreep) req }

/-- Mover m, as x, hands in a request (R9, R10, R95): it waits in AWAIT_POWER at the tail of the list, or it is granted between its minimum
and its request, and is in UNLOCKING or, with its lock free, in RELEASING. Its images are those of the state (R7). With no other request
waiting it is granted exactly when its minimum fits the free budget. -/
structure State.asksPower (s t : State) (m : MoverNo) (x : Mover) (e : PowerRequest) : Prop where
  frame : MotionFrame s t
  others : ∀ w, w ≠ m → s.spared w → t.mv w = s.mv w ∧ t.grant w = s.grant w
  rules : t.rules = s.rules
  orders : s.orders t m
  waits : t.isWaiting m = true →
    t.mv m = { x with state := .awaitPower } ∧ t.grant m = 0 ∧
    ∃ ahead, t.power.waiting = ahead ++ [e] ∧ ahead.Sublist s.power.waiting
  granted : t.isWaiting m = false →
    e.min ≤ t.grant m ∧ t.grant m ≤ e.req ∧ t.power.waiting.Sublist s.power.waiting ∧
    (s.lockFree m → t.mv m = x.releasingFrom) ∧ (¬s.lockFree m → t.mv m = x.unlockingFrom)
  alone : s.power.waiting = [] →
    (t.isWaiting m = false ↔ e.min ≤ s.freeBudget) ∧ (e.min ≤ s.freeBudget → t.grant m = min e.req s.freeBudget)

/-- The entry that the mode grants next: it fits the free budget, and it is the PRIORITY head, of lowest PRIO and among equals the first
to arrive (R97), or in ROTATE the first that fits in cyclic mover order from the rotation pointer (R98). -/
def State.grantsNext (s : State) (e : PowerRequest) : Prop :=
  e ∈ s.power.waiting ∧ e.min ≤ s.freeBudget ∧
  (s.power.mode = .priority →
    ∃ before after, s.power.waiting = before ++ e :: after ∧
      (∀ x ∈ before, (s.mv e.mover).cfg.prio < (s.mv x.mover).cfg.prio) ∧
      ∀ x ∈ after, (s.mv e.mover).cfg.prio ≤ (s.mv x.mover).cfg.prio) ∧
  (s.power.mode = .rotate →
    ∀ x ∈ s.power.waiting, x.min ≤ s.freeBudget → e.mover - s.power.pointer ≤ x.mover - s.power.pointer)

/-- The entry is granted (R96): min(R, free budget) goes to its mover, the entry leaves the list, the pointer moves past the mover, and
the mover is in UNLOCKING or, with its lock free, in RELEASING (R10), with the images of the state (R7). -/
structure State.grants (s t : State) (e : PowerRequest) : Prop where
  amount : t.grant e.mover = min e.req s.freeBudget
  list : t.power.waiting = s.power.waiting.erase e
  pointer : t.power.pointer = e.mover + 1
  releasing : s.lockFree e.mover → t.mv e.mover = (s.mv e.mover).releasingFrom
  unlocking : ¬s.lockFree e.mover → t.mv e.mover = (s.mv e.mover).unlockingFrom
  orders : s.orders t e.mover
  others : ∀ w, w ≠ e.mover → t.mv w = s.mv w ∧ t.grant w = s.grant w
  rules : t.rules = s.rules
  pool : t.pool = s.pool
  notices : t.notices = s.notices
  frame : MotionFrame s t

/-- The entries are granted one after the other, each as the mode selects it on what the grants before it left. -/
def State.grantsInTurn : List PowerRequest → State → State → Prop
  | [], s, t => t = s
  | e :: es, s, t => s.grantsNext e ∧ ∃ u, s.grants u e ∧ State.grantsInTurn es u t

/-- The motion notices have room for a few more. -/
def State.motionRoom (s : State) : Prop :=
  s.notices.motion.enabled = true ∧ s.notices.motion.queue.length + 4 ≤ Config.noticeQueueSize

/-- Mover m, in IDLE with nothing executing, launches its plan (R42, R133, R138): the first failing test refuses it; else the chain is
flushed and the plan runs from the top free slot, clamped, and the mover starts as GO does. -/
def State.launches (s t : State) (m : MoverNo) (plan : Motion) : Prop :=
  let feedback := (∃ st ∈ (s.mv m).cfg.tracks, s.isLost st = true) ∨ (s.mv m).positionUnset = true
  (∀ reason : LaunchRefusal,
    (s.pins.stopOpen = true ∧ reason = .stopOpen) ∨
      (s.pins.stopOpen = false ∧ feedback ∧ reason = .feedback) ∨
      (s.pins.stopOpen = false ∧ ¬feedback ∧ s.pool.free = [] ∧ reason = .poolEmpty) →
    t = { s with
      notices := { s.notices with motion := s.notices.motion.accept ⟨.triggerFailed m reason, s.timebase⟩ } }) ∧
  (s.pins.stopOpen = false → ¬feedback → s.listsSound → (s.mv m).exec = none → ∀ slot rest, s.pool.free = slot :: rest →
    ∃ seg : Segment,
      seg.slot = slot ∧ seg.mover = m ∧ seg.tag = plan.tag ∧ seg.lock = plan.lock ∧ seg.origin = .plan ∧
      (seg.kind, seg.clamps) = (s.mv m).cfg.clamp plan.kind ∧
      s.pool.log ++ (s.mv m).chain.map (flushedRecord s.timebase) <+: t.pool.log ∧
      (s.motionRoom → ⟨.triggered m plan.tag slot (s.mv m).chain.length, s.timebase⟩ ∈ t.notices.motion.queue) ∧
      let x : Mover := { s.mv m with chain := [], exec := some ⟨seg, seg.kind.initialPart⟩ }
      ((s.mv m).cfg.cls = .sheltered ∨ s.wx.hold = .clear →
        s.asksPower t m x (x.request m seg.kind) ∧ t.pool.free = rest) ∧
      ((s.mv m).cfg.cls = .exposed → s.wx.hold ≠ .clear →
        s.settles t m ∧ t.mv m = Mover.heldFrom { x with holdSet := { (s.mv m).holdSet with wind := true } }))

/-- Mover m, as x, comes to IDLE (R10, R18, R19, R22, R28), which leaves i, of which `also` says more; then its pending trigger launches,
its flag cleared (R139; the opening tests before the launch: model's choice, log entry 50). -/
def State.comesToIdle (s t : State) (m : MoverNo) (x : Mover) (also : State → Prop) : Prop :=
  ∃ i : State, s.settles i m ∧ i.listsSound ∧ i.mv m = x.idled ∧ i.trig m = s.trig m ∧ i.pool.free = s.pool.free ∧ also i ∧
    ((s.trig m).pendingFlag = false → t = i) ∧
    ((s.trig m).pendingFlag = true →
      let u : State :=
        { i with wx := { i.wx with triggers := i.wx.triggers.set m.val { s.trig m with pendingFlag := false } } }
      ((s.trig m).plan = none → t = u) ∧ ∀ plan, (s.trig m).plan = some plan → u.launches t m plan)

/-- The track images of mover m become `i` (R7). -/
def State.tracksTake (s t : State) (m : MoverNo) (i : Image) : Prop :=
  ∀ st ∈ (s.mv m).cfg.tracks, (s.mv m).cfg.lockst ≠ some st →
    (t.stn st).map Station.image = (s.stn st).map fun _ => i

/-- A reason is added to mover m's set and acts by its state (R13, R14); the images follow a change of the state (R7). -/
structure State.additionActs (r : HoldReason) (m : MoverNo) (s t : State) : Prop where
  unrecorded : (s.mv m).state.recordsHold = false → t = s
  stays : (s.mv m).state = .holding ∨ (s.mv m).state = .held →
    t = { s with movers := s.movers.set m.val { s.mv m with holdSet := (s.mv m).holdSet.add r } }
  unlocking : (s.mv m).state = .unlocking →
    t = { s with
      movers := s.movers.set m.val
        (Mover.brakingFrom { s.mv m with holdSet := (s.mv m).holdSet.add r, tlock := none })
      stations := t.stations, posted := (s.posted.erase (.tlockExpiry m)).erase (.tbrkExpiry m) }
  releasing : (s.mv m).state = .releasing →
    t = { s with
      movers := s.movers.set m.val (Mover.brakingFrom { s.mv m with holdSet := (s.mv m).holdSet.add r })
      stations := t.stations, posted := s.posted.erase (.tbrkExpiry m) }
  running : (s.mv m).state = .running →
    t = { s with
      movers := s.movers.set m.val
        { s.mv m with holdSet := (s.mv m).holdSet.add r, state := .holding, brakeOrdered := false }
      stations := t.stations, posted := (s.posted.erase (.dwellExpiry m)).erase (.alignTimerExpiry m) }
  brakes : (s.mv m).state = .unlocking ∨ (s.mv m).state = .releasing → s.tracksTake t m (.drive 0 .apply .normal)
  orders : (t.mv m).state ≠ (s.mv m).state → s.orders t m
  frame : MotionFrame s t
  awaiting : (s.mv m).state = .awaitPower → s.listsSound → (∀ c u, s.rule c = some u → m ∉ u.waiting) →
    s.settles t m ∧ t.listsSound ∧ t.mv m = Mover.heldFrom { s.mv m with holdSet := (s.mv m).holdSet.add r } ∧
    (s.motionRoom → ⟨.held m ((s.mv m).holdSet.add r), s.timebase⟩ ∈ t.notices.motion.queue)

/-- An OPEN rule grants the request of mover m, which does not have it, and takes the state st: a claim of its G with K inside the region,
or a release of its K (R113, R114). -/
def State.wouldGrant (s : State) (u : Rule) (m : MoverNo) (st : RuleState) : Prop :=
  u.state = .free ∧
    (u.g = m ∧ st = .held ∧ (u.rlo : Int) * 1000 ≤ (s.mv u.k).p ∧ (s.mv u.k).p ≤ (u.rhi : Int) * 1000 ∨
      u.g ≠ m ∧ u.k = m ∧ st = .released)

/-- A rule that the path of mover m needs, and that the mover does not have, refuses it (R112 to R114): a claim of its G where it is
RELEASED, or OPEN with K outside the region; a release of its K where it is HELD. -/
def State.turnsAway (s : State) (u : Rule) (m : MoverNo) (path : Path) : Prop :=
  u.needs m path = true ∧ u.has m = false ∧ ∀ st, ¬s.wouldGrant u m st

/-- The state that the opening test of a mover with no path, standing at p, gives a rule that the mover has; none where it keeps it
(R120). -/
def State.restFrees (s : State) (m : MoverNo) (p : Int) (u : Rule) : Option RuleState := s.pathsFree m p [] u

/-- The state of a rule after the position initialisation of mover m at rest at p: an OPEN rule takes the state p calls for (R122), and
then the opening test is made (R120). -/
def State.stateAtRest (s : State) (m : MoverNo) (p : Int) (u : Rule) : RuleState :=
  let called : RuleState :=
    if u.state ≠ .free then u.state
    else if u.g = m ∧ (u.zlo : Int) * 1000 ≤ p ∧ p ≤ (u.zhi : Int) * 1000 then .held
    else if u.k = m ∧ (p < (u.rlo : Int) * 1000 ∨ (u.rhi : Int) * 1000 < p) then .released
    else .free
  (s.restFrees m p { u with state := called }).getD called

/-- The opening tests of mover m, with no path and at p, free its rules (R120, R121): a freed rule's list is empty, the rule is gone from
the CLEARANCE list of each mover that stood on it, and one whose set that empties asks for power. Every such mover is in HELD here. -/
structure State.freesRules (s t : State) (m : MoverNo) (p : Int) : Prop where
  rules : ∀ c, t.rule c = (s.rule c).map fun u =>
    match s.restFrees m p u with
    | some st => { u with state := st, waiting := [] }
    | none => u
  woken : ∀ w, w ≠ m →
    let cs := allRules.filter fun c => (s.rule c).any fun u => (s.restFrees m p u).isSome && u.waiting.contains w
    let y : Mover := { s.mv w with holdSet := (s.mv w).holdSet.remove (.clearance cs) }
    ((cs = [] ∨ (s.mv w).holdSet.isEmpty = true ∨ y.holdSet.isEmpty = false) → s.isWaiting w = false → t.mv w = y) ∧
    (cs ≠ [] → (s.mv w).holdSet.isEmpty = false → y.holdSet.isEmpty = true →
      (t.isWaiting w = true → t.mv w = { y with state := .awaitPower }) ∧
      (t.isWaiting w = false → (s.lockFree w → t.mv w = y.releasingFrom) ∧ (¬s.lockFree w → t.mv w = y.unlockingFrom)))

/-- Reasons are removed from mover m's set as one removal, which acts by its state where it empties the set (R13, R16); the images follow
a change of the state (R7). A refused RUNNING entry puts the mover on the lists of the rules that refuse it (R115, R118; their order: log
entry 39), a granted one asks for the look-ahead's rules, too (R116). -/
structure State.removalActs (rs : List HoldReason) (m : MoverNo) (s t : State) : Prop where
  stays :
    (s.mv m).holdSet.isEmpty = true ∨ (rs.foldl HoldSet.remove (s.mv m).holdSet).isEmpty = false ∨
      ((s.mv m).state ≠ .holding ∧ (s.mv m).state ≠ .held) ∨
      ((s.mv m).state = .holding ∧ (s.mv m).stopInProgress = true) →
    t = { s with
      movers := s.movers.set m.val { s.mv m with holdSet := rs.foldl HoldSet.remove (s.mv m).holdSet } }
  held : (s.mv m).holdSet.isEmpty = false → (rs.foldl HoldSet.remove (s.mv m).holdSet).isEmpty = true →
    (s.mv m).state = .held → s.listsSound → ∀ e, (s.mv m).exec = some e →
    s.asksPower t m { s.mv m with holdSet := {} } ((s.mv m).request m e.seg.kind) ∧ t.pool = s.pool
  braked : (s.mv m).holdSet.isEmpty = false → (rs.foldl HoldSet.remove (s.mv m).holdSet).isEmpty = true →
    (s.mv m).state = .holding → (s.mv m).stopInProgress = false → (s.mv m).brakeOrdered = true →
    ((s.mv m).unlocked = true ∨ s.lockFree m →
      t = { s with
        movers := s.movers.set m.val (Mover.releasingFrom { s.mv m with holdSet := {} })
        stations := t.stations, posted := (s.posted.erase (.tbrkExpiry m)).erase (.tbrkExpiry m) }) ∧
    ((s.mv m).unlocked = false → ¬s.lockFree m →
      t = { s with
        movers := s.movers.set m.val (Mover.unlockingFrom { s.mv m with holdSet := {}, tbrk := none })
        stations := t.stations, posted := (s.posted.erase (.tbrkExpiry m)).erase (.tlockExpiry m) })
  moving : (s.mv m).holdSet.isEmpty = false → (rs.foldl HoldSet.remove (s.mv m).holdSet).isEmpty = true →
    (s.mv m).state = .holding → (s.mv m).stopInProgress = false → (s.mv m).brakeOrdered = false →
    (∀ e, (∀ c, s.rule c = none) → (s.mv m).exec = some e → e.part.startTime.isSome = true →
      t = { s with
        movers := s.movers.set m.val
          { s.mv m with
            holdSet := {}, state := .running, exec := some { e with part := { e.part with stopMark := false } } }
        stations := t.stations }) ∧
    (∀ c u path, s.rule c = some u → (s.mv m).execPath = some path → s.turnsAway u m path →
      let cs := s.refusers m (some path)
      c ∈ cs ∧ t.mv m = { s.mv m with holdSet := { clearance := cs } } ∧ t.power = s.power ∧
      t.pool = s.pool ∧ (∀ w, w ≠ m → t.mv w = s.mv w) ∧ t.notices = s.noticesWait m cs s.notices ∧
      ∀ o, t.rule o = (s.rule o).map fun y => if o ∈ cs then y.keepsWaiting m else y) ∧
    (∀ e path, (s.mv m).exec = some e → e.part.startTime.isSome = true → (s.mv m).execPath = some path →
      (∀ c u, s.rule c = some u → ¬s.turnsAway u m path) →
      let y : Mover :=
        { s.mv m with
          holdSet := {}, state := .running, exec := some { e with part := { e.part with stopMark := false } } }
      let asked := State.asks { s.asks m (some path) with movers := s.movers.set m.val y } m y.lookaheadPath
      t = { asked with stations := t.stations })
  orders : (t.mv m).state ≠ (s.mv m).state → s.orders t m
  frame : MotionFrame s t

/-- The emergency stop reaches mover m (R20, R21). Its drives are ordered to stop quickly, with BRAKE as last written (R7; the images of
its state, in `settles`). -/
structure State.stopActs (m : MoverNo) (s t : State) : Prop where
  unmoved : (s.mv m).state.estopActs = false → t = s
  stops : (s.mv m).state.estopActs = true → s.listsSound →
    s.settles t m ∧ (s.mv m).stoppedFrom (t.mv m) ∧ (t.trig m).pendingFlag = false ∧
    s.logsMore t ((s.mv m).cutRecord s.timebase) ∧
    ∀ st y, t.stn st = some y → st ∈ (s.mv m).cfg.tracks → (s.mv m).cfg.lockst ≠ some st →
      ∃ b, y.image = .drive 0 b .quick

/-- The emergency stop reaches every mover that it acts on (R20, R21, R99, R100): no grant is held and no request waits, and the
executing segments are logged CUT in mover number order. -/
structure State.stopActsOnAll (s t : State) : Prop where
  waiting : t.power.waiting = []
  grants : ∀ m, t.grant m = 0
  stops : ∀ m, (s.mv m).state.estopActs = true → (s.mv m).stoppedFrom (t.mv m) ∧ (t.trig m).pendingFlag = false
  others : ∀ m, (s.mv m).state.estopActs = false → t.mv m = s.mv m ∧ t.trig m = s.trig m
  logs : s.logsMore t (allMovers.flatMap fun m =>
    if (s.mv m).state.estopActs = true then (s.mv m).cutRecord s.timebase else [])
  images : ∀ m, (s.mv m).state.estopActs = true → ∀ st y, t.stn st = some y → st ∈ (s.mv m).cfg.tracks →
    (∀ w, (s.mv w).cfg.lockst ≠ some st) → ∃ b, y.image = .drive 0 b .quick
  orders : ∀ m, (s.mv m).state.estopActs = true → s.ordersLock t m ∧ ((s.mv m).state ≠ .awaitPower → s.ordersTracks t m)
  lists : t.listsSound
  frame : MotionFrame s t

/-- OPERATOR reaches every configured mover in number order (R13, R14, R17): what becomes of each, where no mover waits for a rule. A
mover in AWAIT_POWER comes to HELD; one that the withdrawal of a request before it let be granted is then held as UNLOCKING and RELEASING
are. The images follow a change of the state (R7). -/
structure State.holdsEach (s t : State) : Prop where
  stays : ∀ m, (s.mv m).state = .holding ∨ (s.mv m).state = .held →
    t.mv m = { s.mv m with holdSet := (s.mv m).holdSet.add .operator }
  braking : ∀ m, (s.mv m).state = .unlocking ∨ (s.mv m).state = .releasing →
    t.mv m = Mover.brakingFrom
      { s.mv m with
        holdSet := (s.mv m).holdSet.add .operator
        tlock := if (s.mv m).state = .unlocking then none else (s.mv m).tlock }
  running : ∀ m, (s.mv m).state = .running →
    t.mv m = { s.mv m with holdSet := (s.mv m).holdSet.add .operator, state := .holding, brakeOrdered := false }
  brakes : ∀ m, (s.mv m).state = .unlocking ∨ (s.mv m).state = .releasing → ∀ st ∈ (s.mv m).cfg.tracks,
    (∀ w, (s.mv w).cfg.lockst ≠ some st ∧ (w ≠ m → st ∉ (s.mv w).cfg.tracks)) →
      (t.stn st).map Station.image = (s.stn st).map fun _ => .drive 0 .apply .normal
  kept : ∀ m, (s.mv m).state ≠ .awaitPower → t.grant m = s.grant m
  awaiting : ∀ m, (s.mv m).state = .awaitPower →
    t.isWaiting m = false ∧
    (t.mv m = Mover.heldFrom { s.mv m with holdSet := (s.mv m).holdSet.add .operator } ∧ t.grant m = 0 ∨
      ((∃ w < m, (s.mv w).state = .awaitPower) ∧
        (s.lockFree m →
          t.mv m = Mover.brakingFrom { s.mv m with holdSet := (s.mv m).holdSet.add .operator, unlocked := true }) ∧
        (¬s.lockFree m →
          t.mv m = Mover.brakingFrom { s.mv m with holdSet := (s.mv m).holdSet.add .operator, tlock := none })))
  pool : t.pool = s.pool
  orders : ∀ m, (t.mv m).state ≠ (s.mv m).state → s.orders t m

/-- OPERATOR reaches every configured mover in number order (R13, R14, R17). A mover outside AWAIT_POWER to HELD is as it was. -/
structure State.holdsAll (s t : State) : Prop where
  frame : MotionFrame s t
  lists : s.listsSound → t.listsSound
  unrecorded : s.listsSound → ∀ m, (s.mv m).state.recordsHold = false → t.mv m = s.mv m
  each : s.listsSound → (∀ c u, s.rule c = some u → u.waiting = []) → s.holdsEach t

/-- Mover m is taken to FAULT with kind k (R23, R26): `t` is the state before SAFETY FAULT is sent. -/
structure State.faults (s t : State) (m : MoverNo) (k : FaultKind) (others : List FaultKind) : Prop where
  mover : (s.mv m).faultedFrom (t.mv m) k others s.timebase
  settled : s.settles t m
  trigger : (t.trig m).pendingFlag = false
  log : s.pool.log ++ ((s.mv m).exec.map fun e => (s.mv m).logRecord e .faulted (some k) s.timebase).toList <+: t.pool.log

/-- The trim figures of measured positions, against p (R80, R86): the floor of the mean, the spread between the outermost, the errors and
the corrections, cut toward zero and clamped to VCREEP during an ALIGN and else to TCL. -/
structure Mover.trims (x : Mover) (p : Int) (xs : List Int) (t : Trim) : Prop where
  measured : t.measured = xs
  mean : xs ≠ [] → xs.length * t.mean ≤ xs.sum ∧ xs.sum < xs.length * (t.mean + 1)
  spread : ∀ a ∈ xs, ∀ b ∈ xs, a - b ≤ t.skew
  outermost : xs ≠ [] → ∃ a ∈ xs, ∃ b ∈ xs, t.skew = a - b
  errors : t.errors = xs.map fun a => p - a
  corrections : t.corrections = xs.map fun a =>
    let bound : Int := (if (x.exec.map fun e => e.seg.kind) = some .align then x.cfg.vcreep else x.cfg.tcl) * 1000
    max (-bound) (min bound (((p - a) * x.cfg.kc).tdiv 16))

/-- The measured positions of mover m, track by track (R79): POS of the last valid report of its DRIVE station, less the offset. -/
def State.measures (s : State) (m : MoverNo) (xs : List Int) : Prop :=
  xs.length = (s.mv m).cfg.tracks.length ∧ ∀ (i : Nat) (st : StationNo), (s.mv m).cfg.tracks[i]? = some st →
    ∃ x r pos d b, s.stn st = some x ∧ x.report = some r ∧ r.report = .drive pos d b ∧
      xs[i]? = some (pos - (s.mv m).cfg.offs.getD i 0)

/-- Mover m as stage 1 of its update forms it (R5, R6): the marks cleared, the trim from the last reports of its tracks. -/
def State.moverAtUpdate (s : State) (m : MoverNo) : Mover :=
  { s.mv m with
    marks := []
    trim :=
      match s.measured m with
      | some xs => some ((s.mv m).trimFrom (s.mv m).p xs)
      | none => (s.mv m).trim }

/-- The part as stage 1 of mover m's update leaves it. -/
def State.atUpdate (s : State) (m : MoverNo) : State :=
  { s with movers := s.movers.set m.val (s.moverAtUpdate m), posted := s.posted.erase (.trackSetComplete m) }

/-- v is the part after stage 2 of mover m's update (R8): as stage 1 left it where the position is set, or where a track has yet to report;
else p is set to the mean, clamped into travel, residue 0, and the rules take the states that p calls for (R120, R122). No mover waits
on a rule then. -/
def State.placedAtUpdate (s v : State) (m : MoverNo) : Prop :=
  let x := s.moverAtUpdate m
  let p (xs : List Int) : Int := max ((x.cfg.lo : Int) * 1000) (min (meanOf xs) ((x.cfg.hi : Int) * 1000))
  (x.positionUnset = false ∨ s.measured m = none) ∧ v = s.atUpdate m ∨
    x.positionUnset = true ∧ x.exec = none ∧ (∀ c r, s.rule c = some r → r.has m = true → r.waiting = []) ∧
      ∃ xs, s.measured m = some xs ∧
        v = { s.atUpdate m with
          movers := s.movers.set m.val { x with p := p xs, residue := 0, positionUnset := false }
          rules := s.rules.map fun r => r.map fun u => { u with state := s.stateAtRest m (p xs) u } }

/-- The update of mover m is due (R5), with its position initialised, and no check of stage 3 fails (R24). -/
structure State.updates (s : State) (m : MoverNo) : Prop where
  running : s.pins.resetLow = false
  marks : (s.mv m).trackSetComplete = true
  position : (s.mv m).positionUnset = false
  sound : (s.atUpdate m).failingKinds m = []

/-- The skew-warning flag after stage 5 of an update at which the skew is as given (R84). -/
def Mover.warnAfter (x : Mover) (skew : Int) : Bool :=
  if x.skewWarn then decide (((x.cfg.skw : Int) - x.cfg.skh) * 1000 ≤ skew) else decide ((x.cfg.skw : Int) * 1000 ≤ skew)

/-- The notices after stage 5: SKEW_WARN where the flag is set, with the skew in mm (R84). -/
def State.warned (s : State) (m : MoverNo) (x : Mover) (skew : Int) : NoticeUnit :=
  if x.skewWarn = false ∧ x.warnAfter skew = true then (s.raise (.skewWarn m (skew.tdiv 1000))).notices else s.notices

/-- The speed cap of a MOVE in RUNNING at speed limit v (R66, R103): power, then wind, then skew warning. -/
def State.capOf (s : State) (m : MoverNo) (v : Nat) (warn : Bool) : Nat :=
  let r := (s.mv m).cfg
  let percent := match r.cls with | .exposed => s.wx.derate | .sheltered => 100
  let limit := min (v * 1000) (s.grant m * r.vrated * 1000 / r.prated) * percent / 100
  if warn then limit / 2 else limit

/-- v1 of the velocity step from v under a cap, in a period (R69). -/
def stepTo (v a d period cap : Nat) : Nat := if v ≤ cap then min (v + a * period) cap else max (v - d * period) cap

/-- The part of an executing segment after a profile step (R65, R67): the stop mark set where the braking velocity gives the velocity at
the target with end velocity 0, the derated mark where the caps lower the velocity. -/
def ExecPart.stepped (q : ExecPart) (stops derates : Bool) : ExecPart :=
  { q with stopMark := q.stopMark || stops, derated := q.derated || derates }

/-- A mover at a segment switch to g, which stands in for its first RUNNING entry (R43, R61). An ALIGN is set up with it (R77, R78): p to
the mean clamped into travel, v and residue to 0, the corrections formed afresh, the alignment timer started. Its path start is that p
(model's reading, log entry 25). -/
def Mover.switched (x : Mover) (g : Segment) (rest : List Segment) (time : Time) : Mover :=
  let dir : Option Dir :=
    match g.kind with
    | .move dest _ _ _ => if x.p < x.targetUsed dest then some .outward else if x.targetUsed dest < x.p then some .inward else none
    | _ => none
  let executing (start : Int) : Option Executing :=
    some ⟨g, { g.kind.initialPart with startTime := some time, pathStart := some start, dir := dir }⟩
  let y : Mover :=
    { x with chain := rest, alignLeft := none, dir := if dir = none then x.dir else dir, exec := executing x.p }
  if g.kind = .align then
    let start := (x.trim.map fun t => max ((x.cfg.lo : Int) * 1000) (min t.mean ((x.cfg.hi : Int) * 1000))).getD x.p
    { y with
      p := start, v := 0, residue := 0, alignLeft := some x.cfg.talign, exec := executing start
      trim := x.trim.map fun t => y.trimFrom start t.measured }
  else y

/-- The grant of mover m is adjusted at a switch to a request amount: released down to it, or topped up from the free budget (R101). -/
structure State.adjusts (s t : State) (m : MoverNo) (req : Nat) : Prop where
  release : req ≤ s.grant m → t.grant m = req
  topUp : s.grant m < req →
    t.grant m = s.grant m + min (req - s.grant m) s.freeBudget ∧ ∀ w, w ≠ m → t.mv w = s.mv w ∧ t.grant w = s.grant w

/-- Mover m's executing segment g is logged and leaves its place, and its dwell and alignment timers are cancelled (R46, R25). -/
def State.logsExecuting (s t : State) (m : MoverNo) (g : Segment) (o : SegOutcome) : Prop :=
  ∃ e, (s.mv m).exec = some e ∧ e.seg = g ∧ s.logsMore t [(s.mv m).logRecord e o none s.timebase] ∧
    t = { s with
      movers := s.movers.set m.val { s.mv m with exec := none, alignLeft := none }, pool := t.pool, notices := t.notices
      posted := (s.posted.erase (.dwellExpiry m)).erase (.alignTimerExpiry m) }

/-- Mover m, whose executing segment has just been logged, takes g, the head of its chain, as the switch in RUNNING does (R41, R43, R61,
R101, R116, R120): CHAIN_LOW where the count reaches LOW, the grant adjusted, the segment begun, its rules asked for and then those of
the look-ahead, the opening tests made. A refusal for a DWELL or an ALIGN holds the mover at once, with CLEARANCE of the refusing rules
(model's reading, log entry 51). No mover waits on a rule that the opening tests free. -/
def State.switchesTo (s t : State) (m : MoverNo) (g : Segment) (rest : List Segment) : Prop :=
  let y := (s.mv m).switched g rest s.timebase
  let low := if rest.length = y.cfg.low then (s.raise (.chainLow m rest.length)).notices else s.notices
  let taken : State := { s with movers := s.movers.set m.val y, notices := low }
  let asked := taken.asks m y.execPath
  let refusers := taken.refusers m y.execPath
  let becomes (z : Mover) (a : State) : Prop :=
    t.mv m = z ∧ t.notices = a.notices ∧ t.rules = (State.opens { a with movers := s.movers.set m.val z } m).rules
  MotionFrame s t ∧ t.pool = s.pool ∧ s.adjusts t m ((s.mv m).request m g.kind).req ∧ s.orders t m ∧
  (∀ w, w ≠ m → s.isWaiting w = false → t.mv w = s.mv w ∧ t.grant w = s.grant w) ∧
  (refusers = [] ∨ (∃ dest v a d, g.kind = .move dest v a d) → becomes y (asked.asks m y.lookaheadPath)) ∧
  (refusers ≠ [] → (∀ dest v a d, g.kind ≠ .move dest v a d) →
    becomes
      { y with state := .holding, brakeOrdered := false, holdSet := y.holdSet.add (.clearance refusers) } asked)

/-- Mover m, whose executing segment `last` has just been logged, goes on with its chain (R19, R43, R61, R120): with none it ends; else it
takes the head, and a MOVE whose target is where the mover stands is logged ARRIVED at once, after the opening tests (model's reading,
log entry 45), and the mover goes on with the rest. No mover waits for a rule. -/
def State.goesOnWith (m : MoverNo) : List Segment → Segment → State → State → Prop
  | [], last, s, t =>
    s.settles t m ∧ t.mv m = (s.mv m).endingFrom last ∧ t.pool = s.pool ∧
      t.notices = (s.raise (.chainEnd m last.tag)).notices
  | g :: rest, _, s, t =>
    ∃ u : State, s.switchesTo u m g rest ∧
      let stays : Prop := ∃ dest v a d, g.kind = .move dest v a d ∧ (s.mv m).targetUsed dest = (s.mv m).p
      (¬stays → t = u) ∧ (stays → ∃ w, u.logsExecuting w m g .arrived ∧ State.goesOnWith m rest g w t)

/-- Mover m's executing segment completes in RUNNING (R43), where no mover waits for a rule. -/
def State.completes (s t : State) (m : MoverNo) (o : SegOutcome) : Prop :=
  ∃ (e : Executing) (u : State), (s.mv m).exec = some e ∧ s.logsExecuting u m e.seg o ∧
    State.goesOnWith m (s.mv m).chain e.seg u t

/-- The tracks of mover m, all different, none its lock station, take setpoints: v in its direction plus each track's correction (R7, R87). -/
def State.tracksRun (s t : State) (m : MoverNo) (signedV : Int) (corrections : List Int) : Prop :=
  (s.mv m).cfg.tracks.Nodup → ∀ i st, (s.mv m).cfg.tracks[i]? = some st → (s.mv m).cfg.lockst ≠ some st →
    (t.stn st).map Station.image = (s.stn st).map fun _ => .drive (signedV + corrections.getD i 0) .release .normal

/-- The profile step of mover m on a MOVE in RUNNING, from the state that stage 6 left (R62, R64 to R73): toward the target, or toward the
nearest refused boundary before it. The segment goes on, completes at its target, or is held at the boundary with CLEARANCE of all the
rules on whose lists the mover stands. The completion is stated where none but the mover waits, and only for rules that it does not
have. -/
def State.runsTo (s t : State) (m : MoverNo) (e : Executing) (dest : Int) (vCur a d : Nat) (dir : Dir) (corrections : List Int) :
    Prop :=
  let x := s.mv m
  let period := s.updatePeriod m
  let target := max ((x.cfg.lo : Int) * 1000) (min (dest * 1000) ((x.cfg.hi : Int) * 1000))
  ∀ limit, s.limitIs m dir target limit → ∀ blend,
    let blends (v : Nat) : Prop := limit = none ∧ e.part.stopMark = false ∧ s.leadsOn m dir target v
    (∃ v, blends v ∧ blend = min vCur v * 1000) ∨ ((∀ v, ¬blends v) ∧ blend = 0) →
    let stop := limit.getD target
    let dist := (stop - x.p).natAbs
    let cap := s.capOf m vCur x.skewWarn
    let vEnd := min blend cap
    let v1 (cap : Nat) : Nat := stepTo x.v a d period cap
    let brake := brakingVelocity vEnd d dist
    let v := min (v1 cap) brake
    let advance := (v * period + x.residue) / 1000
    let part := e.part.stepped (decide (limit = none ∧ vEnd = 0 ∧ brake < v1 cap))
      (decide (v < min (v1 (vCur * 1000)) (brakingVelocity blend d dist)))
    let moved (p : Int) (v residue : Nat) : Mover :=
      { x with p := p, v := v, residue := residue, exec := some { e with part := part } }
    (advance < dist →
      t = { s with
        movers := s.movers.set m.val (moved (x.p + dir.sign * advance) v ((v * period + x.residue) % 1000))
        stations := t.stations } ∧
      s.tracksRun t m (dir.sign * v) corrections) ∧
    (dist ≤ advance → limit = none → s.listsSound → s.poolSound → s.wakesNone m →
      State.completes { s with movers := s.movers.set m.val (moved target (min v vEnd) 0) } t m .arrived ∧
      ((∃ n, blends n) → s.tracksRun t m (dir.sign * min v vEnd) corrections)) ∧
    (dist ≤ advance → limit ≠ none →
      t = { s with
        movers := s.movers.set m.val
          (Mover.brakingFrom { moved stop 0 0 with holdSet := x.holdSet.add (.clearance (s.listed m)) })
        stations := t.stations
        posted := ((s.posted.erase (.dwellExpiry m)).erase (.alignTimerExpiry m)).erase (.tbrkExpiry m) } ∧
      s.tracksTake t m (.drive 0 .apply .normal))

/-- The profile step of mover m on a MOVE in HOLDING before the brake order, from the state that stage 6 left (R63, R68 to R70, R74): the
velocity falls to 0, never past the limit point, and there the brake order is given. -/
def State.slowsTo (s t : State) (m : MoverNo) (dest : Int) (a d : Nat) (dir : Dir) (corrections : List Int) : Prop :=
  let x := s.mv m
  let period := s.updatePeriod m
  let target := max ((x.cfg.lo : Int) * 1000) (min (dest * 1000) ((x.cfg.hi : Int) * 1000))
  ∀ limit, s.limitIs m dir target limit →
    let stop := limit.getD target
    let dist := (stop - x.p).natAbs
    let v := min (stepTo x.v a d period 0) (brakingVelocity 0 d dist)
    let advance := (v * period + x.residue) / 1000
    (advance < dist → 0 < v →
      t = { s with
        movers := s.movers.set m.val
          { x with p := x.p + dir.sign * advance, v := v, residue := (v * period + x.residue) % 1000 }
        stations := t.stations } ∧
      s.tracksRun t m (dir.sign * v) corrections) ∧
    (dist ≤ advance ∨ v = 0 →
      t = { s with
        movers := s.movers.set m.val
          (Mover.brakingFrom
            { x with p := if dist ≤ advance then stop else x.p + dir.sign * advance, v := 0, residue := 0 })
        stations := t.stations, posted := s.posted.erase (.tbrkExpiry m) } ∧
      s.tracksTake t m (.drive 0 .apply .normal))

/-! ## The track lines -/

/-- What the exchanges of line l leave alone: every block but the line, its notices, the stations, the movers and the events posted. -/
structure LineFrame (s t : State) (l : LineId) : Prop where
  timebase : t.timebase = s.timebase
  pins : t.pins = s.pins
  pool : t.pool = s.pool
  power : t.power = s.power
  rules : t.rules = s.rules
  wx : t.wx = s.wx
  otherLine : ∀ k, k ≠ l → t.line k = s.line k
  serviceId : t.serviceId = s.serviceId
  link : t.link = s.link
  notices : t.notices = { s.notices with line := t.notices.line }
  pending : t.pending = s.pending

/-- The stations of line l numbered n or above: st is the first of them, with the record x (R148). -/
def State.firstFrom (s : State) (l : LineId) (n : Nat) (st : StationNo) (x : Station) : Prop :=
  s.stn st = some x ∧ x.line = l ∧ n ≤ st.val ∧ ∀ o y, s.stn o = some y → y.line = l → n ≤ o.val → st ≤ o

/-- Line l, as c, begins a round under the settings r (R148): the round number rises, the period timer starts, and the first exchange
begins; with no station and no request the line idles again at once. -/
structure State.beginsRound (s t : State) (l : LineId) (c : LineCtl) (r : LineSettings) : Prop where
  first : ∀ st x, s.firstFrom l 0 st x →
    t.line l =
      { c with
        current := r, round := c.round + 1, period := some r.per, overdue := false, phase := .exchange st
        response := some r.tmo, sent := makeFrame x.addr 1 (c.round + 1) x.image.payload }
  empty : (∀ st x, s.stn st = some x → x.line ≠ l) → c.queue = [] →
    t.line l =
      { c with
        current := r, round := c.round + 1, period := some r.per, overdue := false, phase := .betweenRounds
        overrun := false }

/-- The station is one that a new MISS of line l makes LOST: STALE, with its count at or above the new limit (R144). -/
def Station.falls (x : Station) (l : LineId) (miss : Nat) : Bool :=
  decide (x.line = l ∧ x.health = .stale ∧ miss ≤ x.misses)

/-- A new MISS takes effect on line l (R144): STALE stations at or above it are LOST, at the limit, each with LINE STATION_LOST and, of a
source, its loss; LOST ones have their count set to it; no other station changes. Several fall in station number order (model's choice,
log entry 42). `q` is the LINE queue as it stands. -/
structure State.missTakes (s t : State) (l : LineId) (miss : Nat) (q : ClassQueue) : Prop where
  stations : ∀ st, t.stn st = (s.stn st).map fun x =>
    if x.falls l miss = true ∨ (x.line = l ∧ x.health = .lost) then { x with health := .lost, misses := miss } else x
  notices : t.notices.line =
    (allStations.filterMap fun st => (s.stn st).bind fun x =>
      if x.falls l miss then some (Notice.mk (.stationLost st x.line x.addr x.owner) s.timebase) else none).foldl
      ClassQueue.accept q
  losses : ∀ st x, s.stn st = some x → x.falls l miss = true → x.source = true → .sourceLoss st ∈ t.posted

/-- The settings r come into force on line l, as c (R144): a new MISS takes effect, an unchanged one leaves every station as it is. -/
structure State.settingsTake (s t : State) (l : LineId) (c : LineCtl) (r : LineSettings) (q : ClassQueue) : Prop where
  unchanged : c.current.miss = r.miss → t.stations = s.stations ∧ t.notices.line = q
  changed : c.current.miss ≠ r.miss → s.missTakes t l r.miss q

/-- The requests of a line that a discard reaches: the service in flight, then the queue in order (R158). -/
def LineCtl.requests (c : LineCtl) : List ServiceRequest :=
  (match c.phase with | .serviceExchange r => [r] | _ => []) ++ c.queue

/-- The LINE queue after requests have been discarded: LINE SERVICE with RES=NOREPLY and no value for each (R158). -/
def ClassQueue.discards (q : ClassQueue) (rs : List ServiceRequest) (time : Time) : ClassQueue :=
  (rs.map fun r => Notice.mk (.service r.id r.station .noReply none) time).foldl ClassQueue.accept q

/-- The round of line l, as c, ends (R155, R156): in time, or with LINE OVERRUN, unless its flag stood set, and the next round at
once, under the record in force, whose new MISS takes effect (R144). OVERRUN goes before the STATION_LOST notices of that MISS (model's
choice, log entry 53). `q` is the LINE queue as it stands. -/
structure State.roundEnds (s t : State) (l : LineId) (c : LineCtl) (q : ClassQueue) : Prop where
  inTime : c.overdue = false →
    t.line l = { c with phase := .betweenRounds, overrun := false } ∧ t.notices.line = q ∧ t.stations = s.stations
  late : c.overdue = true → ∀ r, c.record = some r →
    s.beginsRound t l { c with overrun := true } r ∧
    s.settingsTake t l c r (if c.overrun then q else q.accept ⟨.overrun l c.round, s.timebase⟩)

/-- Line l, as c, goes on with its round from station number n (R148, R157): the next exchange, or after the last station a service
exchange where a request waits and the time left is at least TMO, or the round's end. Its exchanges keep the settings it began with,
`c.current`, also where new ones wait (R144), and every station as it is. -/
structure State.roundGoesOn (s t : State) (l : LineId) (n : Nat) (c : LineCtl) (q : ClassQueue) : Prop where
  next : ∀ st x, s.firstFrom l n st x →
    t.line l =
      { c with
        phase := .exchange st, response := some c.current.tmo
        sent := makeFrame x.addr 1 c.round x.image.payload } ∧
    t.notices.line = q ∧ t.stations = s.stations
  service : (∀ st x, s.stn st = some x → x.line = l → st.val < n) → ∀ r rest y, c.queue = r :: rest →
    c.current.tmo ≤ c.period.getD 0 → s.stn r.station = some y →
    t.line l =
      { c with
        queue := rest, phase := .serviceExchange r, response := some c.current.tmo
        sent := makeFrame y.addr 3 c.round r.payload } ∧
    t.notices.line = q ∧ t.stations = s.stations
  ends : (∀ st x, s.stn st = some x → x.line = l → st.val < n) → c.queue = [] ∨ c.period.getD 0 < c.current.tmo →
    s.roundEnds t l c q

/-- The exchange with station st, which leaves its record y and the LINE queue q, ends (R5, R148, R151, R152): the track's mark is set,
the mover's update is due when all its marks are, the line goes on, and nothing else changes. With every other station as it was the line
goes on, and only a new MISS that a late round's end brings into force changes a station further (R144). -/
structure State.exchangeEnds (s t : State) (l : LineId) (st : StationNo) (y : Station) (q : ClassQueue) : Prop where
  station : (s.line l).overdue = false ∨ (∀ r, (s.line l).record = some r → r.miss = (s.line l).current.miss) →
    ∀ o, t.stn o = if o = st then some y else s.stn o
  line : State.roundGoesOn { s with stations := s.stations.set st.val (some y) } t l (st.val + 1)
    { s.line l with response := none } q
  mark : ∀ m, y.owner = some m → (s.mv m).state ≠ .unconfigured → st ∈ (s.mv m).cfg.tracks →
    let marks := (s.mv m).cfg.tracks.zipIdx.map fun e => decide (e.1 = st) || (s.mv m).marks.getD e.2 false
    t.mv m = { s.mv m with marks := marks } ∧ ((∀ b ∈ marks, b = true) → .trackSetComplete m ∈ t.posted)
  noMark : ∀ m, y.owner ≠ some m ∨ (s.mv m).state = .unconfigured ∨ st ∉ (s.mv m).cfg.tracks → t.mv m = s.mv m
  posted : ∀ i ∈ s.posted, i ≠ .responseTimeout l → i ≠ .linePeriodExpiry l → i ∈ t.posted
  frame : LineFrame s t l

/-! ## The weather -/

/-- A source that is live: its station is not LOST and holds a valid report (R128). -/
def State.live (s : State) (st : StationNo) : Prop :=
  st ∈ s.wx.sources ∧ ∃ x, s.stn st = some x ∧ x.health ≠ .lost ∧ x.report ≠ none

/-- MEAN and GUST of the last valid report of a live source. -/
def State.blows (s : State) (st : StationNo) (mean gust : Nat) : Prop :=
  s.live st ∧ ∃ x r wet, s.stn st = some x ∧ x.report = some r ∧ r.report = .weather mean gust wet

/-- The wind figure (R128): the largest MEAN and the largest GUST of the live sources, absent where none reports. -/
def State.windIs (s : State) : Option WindFigure → Prop
  | none => ∀ st mean gust, ¬s.blows st mean gust
  | some f =>
    (∀ st mean gust, s.blows st mean gust → mean ≤ f.mean ∧ gust ≤ f.gust) ∧
      (∃ st gust, s.blows st f.mean gust) ∧ ∃ st mean, s.blows st mean f.gust

/-! ## What the part sends -/

/-- S= with the letters of the flags present in a state, in the order of R168's table, or a minus sign where there is none. -/
def State.summaryFlags (s : State) : Text :=
  let letters : Text :=
    (if ∃ m, (s.mv m).state = .fault then ['F'] else []) ++
    (if ∃ m, (s.mv m).state = .unlocking ∨ (s.mv m).state = .releasing ∨ (s.mv m).state = .running ∨ (s.mv m).state = .holding
      then ['M'] else []) ++
    (if s.wx.hold = .clear then [] else ['W']) ++ (if s.pins.stopOpen = true then ['E'] else []) ++
    (if s.link.sup.lost = none then [] else ['L']) ++
    (if ∃ c ∈ [NoticeClass.safety, .motion, .weather, .line], (s.notices.get c).queue ≠ [] then ['N'] else []) ++
    (if s.notices.logThreshold ≤ s.pool.log.length then ['G'] else []) ++ (if s.link.firstLine = true then ['Z'] else [])
  'S' :: '=' :: if letters = [] then ['-'] else letters

/-- A line of these elements as the part sends it in a state: the summary flags, the checksum over all before its asterisk, and CR LF
(R168; 09, Layouts). -/
def State.sends (s : State) (parts : List Text) : Text :=
  let body := joinText ' ' (parts ++ [s.summaryFlags]) ++ [' ']
  body ++ '*' :: hexText (checksum body) ++ [carriageReturn, lineFeed]

/-! ## The execution of command lines -/

/-- A line of a verb is executed now: RESET is high, the line is the one to execute (R165), and its tokens have the field form. -/
structure State.executes (s : State) (verb : String) (ln : CommandLine) (fs : List Field) : Prop where
  running : s.pins.resetLow = false
  next : s.lineIsNext { verb := verb.toList, ln := ln } = true
  fields : parseFields ln.tokens = some fs

/-- A state after a reply has joined the reply queue and the transmitter has been served (R165, R170). -/
def State.answered (s : State) (r : Reply) : State := (s.reply r).serveTransmitter

/-- Of tests in order, the first that holds gives the reason of the refusal (R165). -/
def firstReason (refuses : Reason → Prop) : List (Prop × Reason) → Prop
  | [] => True
  | (p, r) :: tests => (p → refuses r) ∧ (¬p → firstReason refuses tests)

/-- A command whose operands do not parse is refused with the reason its fields give, FORMAT or RANGE; else the tests of its rule, which
follow those two, are made in their order (R165). -/
def refusesInOrder {α : Type} (refuses : Reason → Prop) (operands : Test α) (tests : α → List (Prop × Reason)) : Prop :=
  match operands with
  | .error r => refuses r
  | .ok a => firstReason refuses (tests a)

/-- The cause that ACKFAULT finds present for a primary kind (R28). -/
def State.causeStands (s : State) (m : MoverNo) : FaultKind → Prop
  | .feedback => ∃ st ∈ (s.mv m).cfg.tracks, s.isLost st = true
  | .drive => ∃ st ∈ (s.mv m).cfg.tracks, ∃ pos d b, s.driveReport st = some (pos, d, b) ∧ (d = .tripped ∨ d = .disabled)
  | .lock => s.lockReport m = some .jammed
  | .overtravel => ∃ xs, s.measured m = some xs ∧
      (meanOf xs < ((s.mv m).cfg.lo - (s.mv m).cfg.ovt : Int) * 1000 ∨
        ((s.mv m).cfg.hi + (s.mv m).cfg.ovt : Int) * 1000 < meanOf xs)
  | .brake | .stopTimeout | .stopUnconfirmed | .skew | .follow | .align => False

/-- A station of the movers' lists that is no station of a type free for mover m: another type, or another mover's (R3). -/
def State.unfit (s : State) (m : MoverNo) (t : StationType) (st : StationNo) : Prop :=
  ∃ x, s.stn st = some x ∧ (x.type ≠ t ∨ ∃ o, x.owner = some o ∧ o ≠ m)

/-- A configured mover has a track on line l. -/
def State.tracksLie (s : State) (m : MoverNo) (l : LineId) : Prop :=
  (s.mv m).state ≠ .unconfigured ∧ ∃ st ∈ (s.mv m).cfg.tracks, ∃ x, s.stn st = some x ∧ x.line = l

/-- The reply of an accepted command (R166). -/
def accepted (ln : CommandLine) (fields : List OutField) : Reply :=
  { tag := ln.tag, form := .ok, fields := fields, full := false }

/-- The verbs with their commands and the act of their block. -/
def verbActs : List (String × (CommandLine → Instr) × Act) :=
  [("DEFMOVER", .defmover, actDefmover), ("GO", .go, actGo), ("HOLD", .hold, actHold), ("RESUME", .resume, actResume),
   ("STOP", .stop, actStop), ("ESTOP", .estop, actEstop), ("ACKFAULT", .ackfault, actAckfault),
   ("MOVERSTAT", .moverstat, actMoverstat), ("STAGE", .stage, actStage), ("FLUSH", .flush, actFlush),
   ("LOGREAD", .logread, actLogread), ("POOLSTAT", .poolstat, actPoolstat), ("SETPOWER", .setpower, actSetpower),
   ("POWERSTAT", .powerstat, actPowerstat), ("DEFRULE", .defrule, actDefrule), ("RULESTAT", .rulestat, actRulestat),
   ("SETWX", .setwx, actSetwx), ("SETPLAN", .setplan, actSetplan), ("SETTRIG", .settrig, actSettrig),
   ("WXSTAT", .wxstat, actWxstat), ("DEFLINE", .defline, actDefline), ("DEFSTN", .defstn, actDefstn),
   ("SERVICE", .service, actService), ("LINESTAT", .linestat, actLinestat), ("STNSTAT", .stnstat, actStnstat),
   ("SUPERVISE", .supervise, actSupervise), ("BEAT", .beat, actBeat), ("LINKSTAT", .linkstat, actLinkstat),
   ("CLEARALL", .clearall, actClearall), ("SETNOTE", .setnote, actSetnote)]

/-! ## What the host and the stations send -/

/-- The line of a verb as the host writes it, less its CR LF (09, Layouts). -/
def commandText (verb : Text) (ln : CommandLine) : Text :=
  let body := '#' :: ln.tag ++ ' ' :: joinText ' ' (verb :: ln.tokens) ++ [' ']
  body ++ '*' :: hexText (checksum body)

/-- A text as the characters that bring it, each with a good stop bit. -/
def asReceived (t : Text) : List RxChar := t.map fun c => { octet := charOctet c, goodStop := true }

/-- The line of a verb as it arrives on RXD, to its CR LF. -/
def commandReceived (verb : Text) (ln : CommandLine) : List RxChar :=
  asReceived (commandText verb ln ++ [carriageReturn, lineFeed])

/-- The type of station that sends a report. -/
def Report.type : Report → StationType
  | .drive .. => .drive
  | .lock _ => .lock
  | .weather .. => .weather

/-- The values that a report's fields can carry: POS is signed 32-bit, MEAN and GUST lie in 0..999 (R150, R177). -/
def Report.wf : Report → Prop
  | .drive pos _ _ => -2147483648 ≤ pos ∧ pos ≤ 2147483647
  | .lock _ => True
  | .weather mean gust _ => mean ≤ 999 ∧ gust ≤ 999

/-- The payload of a report frame, as a station forms it (R177). -/
def Report.payload : Report → List Octet
  | .drive pos st b =>
    octets32 (BitVec.ofInt 32 pos) ++
      [match st with
       | .ready => 0
       | .running => 1
       | .stopping => 2
       | .tripped => 3
       | .disabled => 4,
       match b with
       | .applied => 0
       | .released => 1
       | .travelling => 2]
  | .lock st =>
    [match st with
     | .engaged => 0
     | .withdrawn => 1
     | .moving => 2
     | .jammed => 3]
  | .weather mean gust wet =>
    octets16 (BitVec.ofNat 16 mean) ++ octets16 (BitVec.ofNat 16 gust) ++ [if wet then 1 else 0]

/-- A step that does not stop. -/
def State.goesOn (s : State) : Prop := ∃ t, step s = .next t

end Sys2Proof.Machine
end

