-- ==== Sys2Proof/WellFormed.lean ====
section
/-! DEFINITION. Well-formed commands: operands that the outside, or the part's own blocks, can really give. -/

namespace Sys2Proof

open Sys2Proof.Machine

/-- An element of a line: printable characters other than the space that ends it and the # that would begin another line (R162). -/
def elementWf (t : Text) : Bool := t.all fun c => printable c && c != ' ' && c != '#'

/-- A command line that R162 lets pass: a tag of 1 to 3 digits, and with the verb at most 200 characters, checksum and CR LF
included. -/
def CommandLine.wf (verb : Text) (ln : CommandLine) : Bool :=
  (!ln.tag.isEmpty && decide (ln.tag.length ≤ 3) && ln.tag.all isDigit) && elementWf verb && ln.tokens.all elementWf &&
    decide (1 + ln.tag.length + 1 + verb.length + (ln.tokens.map fun t => 1 + t.length).sum + 6 ≤ Config.lineLimit)

/-- A line completes at its CR LF (R162). -/
def lineWf (line : List RxChar) : Bool :=
  line.drop (line.length - 2) == [⟨0x0D, true⟩, ⟨0x0A, true⟩]

/-- A frame is a run of octets, at least one (R177). -/
def Frame.wf (f : Frame) : Bool := !f.octets.isEmpty

/-- CLEARANCE names at least one rule, in rule number order without repeats (R13). -/
def HoldReason.wf : HoldReason → Bool
  | .clearance cs => !cs.isEmpty && decide (cs.Pairwise (· < ·))
  | _ => true

/-- A well-formed command: every constructor, none falls under another. -/
def Instr.wf : Instr → Bool
  | .powerOn _ _ _ | .resetAssert | .resetRelease _ | .stopinOpening | .stopinClosing => true
  | .lineReceived line => lineWf line
  | .unknownVerb verb ln => (verbCommand verb).isNone && ln.wf verb
  | .defmover ln => ln.wf "DEFMOVER".toList
  | .go ln => ln.wf "GO".toList
  | .hold ln => ln.wf "HOLD".toList
  | .resume ln => ln.wf "RESUME".toList
  | .stop ln => ln.wf "STOP".toList
  | .estop ln => ln.wf "ESTOP".toList
  | .ackfault ln => ln.wf "ACKFAULT".toList
  | .moverstat ln => ln.wf "MOVERSTAT".toList
  | .stage ln => ln.wf "STAGE".toList
  | .flush ln => ln.wf "FLUSH".toList
  | .logread ln => ln.wf "LOGREAD".toList
  | .poolstat ln => ln.wf "POOLSTAT".toList
  | .setpower ln => ln.wf "SETPOWER".toList
  | .powerstat ln => ln.wf "POWERSTAT".toList
  | .defrule ln => ln.wf "DEFRULE".toList
  | .rulestat ln => ln.wf "RULESTAT".toList
  | .setwx ln => ln.wf "SETWX".toList
  | .setplan ln => ln.wf "SETPLAN".toList
  | .settrig ln => ln.wf "SETTRIG".toList
  | .wxstat ln => ln.wf "WXSTAT".toList
  | .defline ln => ln.wf "DEFLINE".toList
  | .defstn ln => ln.wf "DEFSTN".toList
  | .service ln => ln.wf "SERVICE".toList
  | .linestat ln => ln.wf "LINESTAT".toList
  | .stnstat ln => ln.wf "STNSTAT".toList
  | .supervise ln => ln.wf "SUPERVISE".toList
  | .beat ln => ln.wf "BEAT".toList
  | .linkstat ln => ln.wf "LINKSTAT".toList
  | .clearall ln => ln.wf "CLEARALL".toList
  | .setnote ln => ln.wf "SETNOTE".toList
  | .transmitLineEnd | .supervisionTimerExpiry | .linePeriodExpiry _ => true
  | .frameReceived _ f => f.wf
  | .responseTimeout _ => true
  | .serviceReplyReceived _ f => f.wf
  | .serviceTimeout _ | .trackSetComplete _ => true
  | .holdReasonAddition _ r => r.wf
  | .holdReasonRemoval _ r => r.wf
  | .tlockExpiry _ | .tbrkExpiry _ | .tstopExpiry _ | .dwellExpiry _ | .alignTimerExpiry _ => true
  | .reportArrival _ | .sourceLoss _ | .releaseTimerExpiry | .triggerFiring _ | .characterArrival _ => true

end Sys2Proof
end

