-- ==== Sys2Proof/Certificates/Slice0/Obligations.lean ====
section
/-! DEFINITION. The statements for the provers: what the rules of the manual say the commands and the machine do. `t.answered r` is t
after the reply r has joined the reply queue and the transmitter has been served; `s.leaveBuffer` is s after the executed line has left
the input buffer. -/

open Sys2Proof Sys2Proof.Machine

/-! ## The step -/

/-- A step runs the command at the front of the queue on the queue's rest. -/
def Obligations.StepTakesTheFrontCommand : Prop :=
  ∀ (c : Instr) (s : State), step { s with pending := c :: s.pending } = exec c s

/-- With no command waiting the part goes on by itself (model's choice, log entries 1 and 2): held in RESET it stands still; else it
takes its oldest posted event, else it executes the oldest buffered line if no reply of an execution waits, else a millisecond passes.
R1: the millisecond raises the timebase by 1, every timer that runs loses 1, and one that reaches 0 posts its expiry; the line on TXD
goes on at the latched rate (R161), and its end is posted when its last bit is out. Nothing else changes. The order of what is posted is
the model's choice (log entry 2). -/
def Obligations.EmptyQueueStepTakesOwnEventOrTick : Prop :=
  ∀ s : State, s.pending = [] →
    (s.pins.resetLow = true → step s = .next s) ∧
    (s.pins.resetLow = false →
      (∀ i rest, s.posted = i :: rest → step s = exec i s) ∧
      (∀ b rest, s.posted = [] → s.link.inputBuffer = b :: rest → s.link.executionReplyWaits = false →
        step s = exec b.command s) ∧
      (s.posted = [] → s.link.inputBuffer = [] ∨ s.link.executionReplyWaits = true →
        step s =
          .next { s with
            timebase := s.timebase + 1
            movers := Vector.ofFn fun m => (s.mv m).msLater
            lineA := s.lineA.msLater
            lineB := s.lineB.msLater
            wx := { s.wx with releaseTimer := afterMs s.wx.releaseTimer }
            link :=
              { s.link with
                sup := { s.link.sup with timer := afterMs s.link.sup.timer }
                tx := s.link.tx.map fun l => { l with left := l.left - s.pins.msBits } }
            posted :=
              s.expiries ++
                if s.link.tx.any (fun l => decide (l.left ≤ s.pins.msBits)) then [.transmitLineEnd] else [] }))

/-- No command stops the part, and none touches the queue of the commands that wait. -/
def Obligations.NoCommandStops : Prop :=
  ∀ (c : Instr) (s : State), ∃ t, exec c s = .next t ∧ t.pending = s.pending

/-! ## Invariants that every step keeps -/

/-- R93: the sum of all movers' grants never exceeds the traction budget. -/
def Obligations.GrantsStayWithinTheBudget : Prop :=
  ∀ s t : State, s.powerSound → step s = .next t → t.powerSound

/-- R31: every one of the 256 slots stays in exactly one of the four places. -/
def Obligations.EverySlotStaysInOnePlace : Prop :=
  ∀ s t : State, s.poolSound → step s = .next t → t.poolSound

/-- R33: no mover's pending chain holds more segments than its CAP. -/
def Obligations.ChainsStayWithinTheirCap : Prop :=
  ∀ s t : State, s.chainsSound → step s = .next t → t.chainsSound

/-- R178, R164, R163, R169, R142: every queue stays within its size. -/
def Obligations.QueuesStayWithinTheirSizes : Prop :=
  ∀ s t : State, s.notices.bounded ∧ s.link.Bounded ∧ s.queuesSound → step s = .next t →
    t.notices.bounded ∧ t.link.Bounded ∧ t.queuesSound

/-- R8, R33, R61: the commanded position stays within the travel, only a mover in AWAIT_POWER to HELD executes, and the target of an
executing MOVE never lies behind p. -/
def Obligations.CommandedPositionStaysInTravel : Prop :=
  ∀ s t : State, s.travelSound → step s = .next t → t.travelSound

/-- R93, R96, R100, R109, R118, R3, R4: the waiting lists and the grants stay in agreement with the movers' states, the two movers of a rule
differ, a mover in AWAIT_POWER keeps its entry on the arbiter's list, and the stations that a mover names stay its own, of the types
that R3 asks. -/
def Obligations.ListsStayInAgreementWithStates : Prop :=
  ∀ s t : State, s.listsSound → step s = .next t → t.listsSound ∧ (s.requestsWait → t.requestsWait) ∧
    (s.stationsSound → t.stationsSound)

/-- All the invariants hold right after reset. -/
def Obligations.InvariantsHoldAtReset : Prop :=
  State.reset.powerSound ∧ State.reset.poolSound ∧ State.reset.chainsSound ∧ State.reset.notices.bounded ∧
    State.reset.link.Bounded ∧ State.reset.queuesSound ∧ State.reset.travelSound ∧ State.reset.listsSound ∧
    State.reset.requestsWait ∧ State.reset.stationsSound

/-! ## Pins -/

/-- While RESET is low, RXD is ignored, TXD is idle and no block acts (R161): only the pins' own events do anything. That RESET_ASSERT
changes nothing there is the model's choice (log entry 3). -/
def Obligations.ResetHeldLowFreezesThePart : Prop :=
  ∀ (c : Instr) (s : State), s.pins.resetLow = true → (∀ a b d, c ≠ .powerOn a b d) → (∀ b, c ≠ .resetRelease b) →
    c ≠ .stopinOpening → c ≠ .stopinClosing → exec c s = .next s

/-- R1, R20, R161, R176: POWER_ON, RESET_ASSERT and RESET_RELEASE bring every block to its power-up values, with the timebase at 0;
STOPIN open at the release sends SAFETY STOP_OPEN, the first line, with the flags W, E and Z. The latched rate stays while RESET is low
(model's choice, log entry 3). -/
def Obligations.PowerAndResetGivePowerUpValues : Prop :=
  ∀ (s : State) (b stopOpen : Bool),
    exec (.powerOn true stopOpen b) s =
      .next { pins := { resetLow := true, stopOpen := stopOpen, fastLink := s.pins.fastLink }, pending := s.pending } ∧
    exec (.powerOn false false b) s = .next { pins := { fastLink := b }, pending := s.pending } ∧
    exec (.powerOn false true b) s =
      .next
        { pins := { stopOpen := true, fastLink := b }
          link :=
            { tx :=
                some
                  { text := "!SAFETY STOP_OPEN T=0 S=WEZ *11\r\n".toList, carriesZ := true
                    left := "!SAFETY STOP_OPEN T=0 S=WEZ *11\r\n".length * 10000 } }
          pending := s.pending } ∧
    (s.pins.resetLow = false →
      exec .resetAssert s = .next { pins := { s.pins with resetLow := true }, pending := s.pending }) ∧
    (s.pins.resetLow = true → exec (.resetRelease b) s = exec (.powerOn false s.pins.stopOpen b) s)

/-- R20, R21, R100: the opening of STOPIN takes every mover in AWAIT_POWER to ENDING to STOPPING at one event. When it has been taken, no
mover holds a grant and no request waits; the images are those of STOPPING (R7); the other movers are as they were. The closing sends SAFETY
STOP_CLOSED and changes no mover; a closing of a closed loop is none (model's choice, log entry 3). -/
def Obligations.StopinOpeningStopsEveryMover : Prop :=
  (∀ s : State, s.pins.resetLow = false →
    (s.pins.stopOpen = true →
      exec .stopinClosing s =
        .next (State.raise { s with pins := { s.pins with stopOpen := false } } .stopClosed).serveTransmitter) ∧
    (s.pins.stopOpen = false → exec .stopinClosing s = .next s)) ∧
  ∀ s : State, s.pins.resetLow = false → s.pins.stopOpen = false → s.listsSound →
    ∃ t : State, exec .stopinOpening s = .next t.serveTransmitter ∧
      t.pins = { s.pins with stopOpen := true } ∧ t.power.waiting = [] ∧ (∀ m, t.grant m = 0) ∧
      (∀ m, (s.mv m).state.estopActs = true → (s.mv m).stoppedFrom (t.mv m)) ∧
      (∀ m, (s.mv m).state.estopActs = false → t.mv m = s.mv m) ∧
      (∀ m, (s.mv m).state.estopActs = true → s.ordersLock t m ∧ ((s.mv m).state ≠ .awaitPower → s.ordersTracks t m)) ∧
      t.notices.safety = s.notices.safety.accept ⟨.stopOpen, s.timebase⟩ ∧
      MotionFrame { s with pins := { s.pins with stopOpen := true } } t

/-! ## The supervisory link -/

/-- R162, R163: what the receiver does with each character, but for the LF that ends an undamaged line of at most 200 characters. A
character with a bad stop bit is taken for no #, CR or LF, and a # begins a new line also as the 201st character and within a damaged
line (model's readings, log entries 9 and 55). -/
def Obligations.CharactersAreReceivedByTheTable : Prop :=
  ∀ (s : State) (x : RxChar), s.pins.resetLow = false →
    let c := octetChar x.octet
    let isHash := x.goodStop = true ∧ c = '#'
    let isLf := x.goodStop = true ∧ c = lineFeed
    let counted := min (s.link.errors + 1) 65535
    let becomes (r : Receiver) (errors : Nat) : Prop :=
      exec (.characterArrival x) s =
        .next (State.serveTransmitter { s with link := { s.link with receiver := r, errors := errors } })
    (∀ stray, s.link.receiver = .between stray →
      (isHash → becomes (.within ['#'] false false) s.link.errors) ∧
      (¬isHash → stray = true → becomes (.between true) s.link.errors) ∧
      (¬isHash → stray = false → becomes (.between true) counted)) ∧
    (∀ text damaged cr, s.link.receiver = .within text damaged cr →
      (isHash → becomes (.within ['#'] false false) counted) ∧
      (isLf → cr = true → damaged = true ∨ 200 ≤ text.length → becomes (.between false) counted) ∧
      (¬isHash → ¬(isLf ∧ cr = true) →
        (damaged = true ∨ cr = true ∨ x.goodStop = false ∨ 200 ≤ text.length ∨ (printable c = false ∧ c ≠ carriageReturn) →
          becomes (.within text true (x.goodStop && c == carriageReturn)) s.link.errors) ∧
        (damaged = false → cr = false → x.goodStop = true → text.length < 200 → printable c = true ∨ c = carriageReturn →
          becomes (.within (text ++ [c]) false (c == carriageReturn)) s.link.errors)))

/-- R162, R164, R171: the LF that completes a line. A line that fails a check is counted; one that passes is observed by link
supervision and joins the input buffer while fewer than four wait. In simple mode it restarts the timer; in window mode only a BEAT
does, and one that comes sooner than LOW sets the link-lost flag with cause EARLY (R172, R173). -/
def Obligations.CompletedLineIsCheckedObservedAndBuffered : Prop :=
  ∀ (s : State) (x : RxChar) (text : Text), s.pins.resetLow = false → x.goodStop = true → octetChar x.octet = lineFeed →
    s.link.receiver = .within (text ++ [carriageReturn]) false true → text.length < 199 →
    (parseLine text = none →
      exec (.characterArrival x) s =
        .next (State.serveTransmitter
          { s with link := { s.link with receiver := .between false, errors := min (s.link.errors + 1) 65535 } })) ∧
    (∀ b, parseLine text = some b → s.link.inputBuffer.length < 4 →
      ∃ t : State, exec (.characterArrival x) s = .next t.serveTransmitter ∧
        t.link.inputBuffer = s.link.inputBuffer ++ [b] ∧ t.link.receiver = .between false ∧ t.link.errors = s.link.errors ∧
        t.link.replies = s.link.replies ∧ t.movers = s.movers ∧ t.timebase = s.timebase ∧
        (s.link.sup.timer = none → t.link.sup = s.link.sup ∧ t.posted = s.posted) ∧
        (∀ left up low, s.link.sup.timer = some left → s.link.sup.up = some up → s.link.sup.low = some low →
          let lost := 0 < low ∧ b.verb = "BEAT".toList ∧ up - left < low
          (lost →
            t.link.sup = { s.link.sup with lost := some .early, timer := none } ∧
            t.notices.safety = s.notices.safety.accept ⟨.linkLost .early, s.timebase⟩ ∧
            t.posted = s.posted.erase .supervisionTimerExpiry ++ s.configuredMovers.map fun m => .holdReasonAddition m .link) ∧
          (low = 0 ∨ b.verb = "BEAT".toList → ¬lost → t.link.sup = { s.link.sup with timer := some up }) ∧
          (0 < low → b.verb ≠ "BEAT".toList → t.link.sup = s.link.sup)))

/-- R162, R164 (decode and encode agree): for every verb and every well-formed command line, the characters that the layout gives for
it, sent to a receiver between lines with supervision off, bring exactly that verb, tag and tokens: into the input buffer while fewer
than four lines wait, else into a FULL reply while fewer than four of those wait, else to the error count. -/
def Obligations.EveryCommandLineIsReadAsItWasWritten : Prop :=
  ∀ (s : State) (verb : Text) (ln : CommandLine) (stray : Bool), ln.wf verb = true → s.pins.resetLow = false →
    s.link.receiver = .between stray → s.link.sup.timer = none →
    let u : State := { s with link := { s.link with receiver := .between false } }
    (s.link.inputBuffer.length < 4 →
      exec (.lineReceived (commandReceived verb ln)) s =
        .next (State.serveTransmitter
          { u with link := { u.link with inputBuffer := s.link.inputBuffer ++ [{ verb := verb, ln := ln }] } })) ∧
    (4 ≤ s.link.inputBuffer.length → (s.link.replies.filter Reply.full).length < 4 →
      exec (.lineReceived (commandReceived verb ln)) s =
        .next (u.answered { tag := ln.tag, form := .refused .full, fields := [], full := true })) ∧
    (4 ≤ s.link.inputBuffer.length → 4 ≤ (s.link.replies.filter Reply.full).length →
      exec (.lineReceived (commandReceived verb ln)) s =
        .next (State.serveTransmitter { u with link := { u.link with errors := min (s.link.errors + 1) 65535 } }))

/-- Layouts: a decimal value written with up to ten digits is read back as the number it stands for. -/
def Obligations.DecimalValuesAreReadBack : Prop :=
  ∀ x : Int, x.natAbs < 10000000000 → decimal (intText x) = some x

/-- R168, R170, R181, R182: at the end of a line the transmitter sends the oldest reply; with no reply the oldest notice of the first
class, in the order SAFETY, MOTION, WEATHER, LINE, that has one, with LOST=1 where its overflow mark was set; else it stays idle. A line
that carried Z clears the first-line flag. The line sent carries the summary flags of the state as its sending begins, and the checksum. -/
def Obligations.TransmitterChoosesRepliesThenRankedNotices : Prop :=
  ∀ (s : State) (l : TxLine), s.pins.resetLow = false → s.link.tx = some l →
    ∃ t : State, exec .transmitLineEnd s = .next t ∧
      t.link.firstLine = (s.link.firstLine && !l.carriesZ) ∧ t.link.inputBuffer = s.link.inputBuffer ∧
      t.link.errors = s.link.errors ∧ t.link.sup = s.link.sup ∧ t.movers = s.movers ∧ t.pool = s.pool ∧ t.power = s.power ∧
      t.posted = s.posted.erase .transmitLineEnd ∧
      (∀ r rest, s.link.replies = r :: rest →
        t.link.replies = rest ∧ t.notices = s.notices ∧ t.link.tx.map TxLine.text = some (t.sends r.parts)) ∧
      (s.link.replies = [] → ∀ c x rest, (s.notices.get c).queue = x :: rest →
        (∀ d ∈ [NoticeClass.safety, .motion, .weather, .line].takeWhile (· ≠ c), (s.notices.get d).queue = []) →
        t.link.replies = [] ∧ t.notices = s.notices.put c { s.notices.get c with queue := rest, overflow := false } ∧
        t.link.tx.map TxLine.text = some (t.sends (x.parts (s.notices.get c).overflow))) ∧
      (s.link.replies = [] → (∀ c, (s.notices.get c).queue = []) →
        t.link.tx = none ∧ t.link.replies = [] ∧ t.notices = s.notices)

/-- R173: the expiry of the running supervision timer sets the link-lost flag with cause TIMEOUT, stops the timer, sends SAFETY LINK_LOST
and posts LINK to every configured mover in number order. -/
def Obligations.SupervisionExpiryLosesTheLink : Prop :=
  ∀ (s : State) (left : Nat), s.pins.resetLow = false → s.link.sup.timer = some left →
    ∃ t : State, exec .supervisionTimerExpiry s = .next t.serveTransmitter ∧
      t.link = { s.link with sup := { s.link.sup with lost := some .timeout, timer := none } } ∧
      t.notices = (s.raise (.linkLost .timeout)).notices ∧
      t.posted = ((s.posted.erase .supervisionTimerExpiry).erase .supervisionTimerExpiry) ++
        s.configuredMovers.map (fun m => .holdReasonAddition m .link) ∧
      t.timebase = s.timebase ∧ t.pins = s.pins ∧ t.movers = s.movers ∧ t.pool = s.pool ∧ t.power = s.power ∧
      t.rules = s.rules ∧ t.wx = s.wx ∧ t.lineA = s.lineA ∧ t.lineB = s.lineB ∧ t.stations = s.stations ∧
      t.serviceId = s.serviceId ∧ t.pending = s.pending

/-- R165, R166, R167: a refused command changes no state but its line leaves the buffer and its one reply is formed: UNKNOWN for a verb
not in the catalogue, FORMAT where a token is not a field, else the reason of the first test of its block that fails. The tests that
follow FORMAT and RANGE are made in the order of R3, R9, R17, R18, R28, R39, R104, R110, R127, R143, R146, R157 and R171. A value of M
that is no decimal is FORMAT, for a verb that does not take ALL (model's reading, log entry 10); a mean that cannot be formed shows no
overtravel (log entry 28); a pending count above CAP is CHAIN_FULL (log entry 31); CLEARALL tests FORMAT before BUSY (log entry 54). -/
def Obligations.RefusedCommandsChangeNothing : Prop :=
  (∀ (verb : Text) (ln : CommandLine) (s : State), s.pins.resetLow = false → verbCommand verb = none →
    s.lineIsNext { verb := verb, ln := ln } = true →
    exec (.unknownVerb verb ln) s = .next (s.leaveBuffer.answered (refusal ln.tag .unknown))) ∧
  (∀ v ∈ verbActs, ∀ (ln : CommandLine) (s : State), s.pins.resetLow = false →
    s.lineIsNext { verb := v.1.toList, ln := ln } = true →
    (parseFields ln.tokens = none → exec (v.2.1 ln) s = .next (s.leaveBuffer.answered (refusal ln.tag .format))) ∧
    (∀ fs e, parseFields ln.tokens = some fs → v.2.2 fs s.leaveBuffer = .error e →
      exec (v.2.1 ln) s = .next (s.leaveBuffer.answered (refusal ln.tag e)))) ∧
  (∀ x : Int, x.natAbs < 10000000000 → parseMover [{ name := "M".toList, value := intText x }] =
    if 0 ≤ x ∧ x ≤ 7 then .ok (Fin.ofNat 8 x.toNat) else .error .range) ∧
  (∀ t : Text, decimal t = none → parseMover [{ name := "M".toList, value := t }] = .error .format) ∧
  ∀ (ln : CommandLine) (fs : List Field) (s : State),
    let refuses (c : Instr) (r : Reason) : Prop := exec c s = .next (s.leaveBuffer.answered (refusal ln.tag r))
    let unconfigured (m : MoverNo) : Prop := (s.mv m).state = .unconfigured
    let lost : Prop := s.link.sup.lost ≠ none
    let unused (st : StationNo) : Prop := s.stn st = none
    (s.executes "DEFMOVER" ln fs → refusesInOrder (refuses (.defmover ln)) (parseDefmover fs) fun a =>
      let m := a.1
      let r := a.2
      [(¬unconfigured m ∧ (s.mv m).atRest = false, .busy),
       (∃ c u, s.rule c = some u ∧ (u.g = m ∨ u.k = m), .conflict),
       (∃ st, (st ∈ r.tracks ∨ r.lockst = some st) ∧ unused st, .undefined),
       ((∃ st ∈ r.tracks, s.unfit m .drive st) ∨ ¬r.tracks.Nodup ∨ ∃ st, r.lockst = some st ∧ s.unfit m .lock st, .conflict),
       ((∃ st ∈ r.tracks, ∃ x, s.stn st = some x ∧ (s.line x.line).polling = false) ∨
          ∃ st ∈ r.tracks, ∃ o ∈ r.tracks, ∃ x y, s.stn st = some x ∧ s.stn o = some y ∧ s.period x.line ≠ s.period y.line, .conflict),
       (r.cap < (s.mv m).chain.length, .conflict)]) ∧
    (s.executes "GO" ln fs → refusesInOrder (refuses (.go ln)) (parseMover fs) fun m =>
      [(unconfigured m, .undefined), (s.pins.stopOpen = true, .stopOpen), (lost, .linkLost), ((s.mv m).state ≠ .idle, .busy),
       ((s.mv m).chain = [], .chainEmpty),
       ((∃ st ∈ (s.mv m).cfg.tracks, s.isLost st = true) ∨ (s.mv m).positionUnset = true, .feedback)]) ∧
    (s.executes "HOLD" ln fs → refusesInOrder (refuses (.hold ln)) (parseMoverOrAll fs) fun who =>
      [(∃ m, who = some m ∧ unconfigured m, .undefined)]) ∧
    (s.executes "RESUME" ln fs → refusesInOrder (refuses (.resume ln)) (parseMover fs) fun m =>
      [(unconfigured m, .undefined), ((s.mv m).state = .stopped ∧ s.pins.stopOpen = true, .stopOpen), (lost, .linkLost),
       ((s.mv m).state = .fault, .busy)]) ∧
    (s.executes "STOP" ln fs → refusesInOrder (refuses (.stop ln)) (parseMover fs) fun m =>
      [(unconfigured m, .undefined), ((s.mv m).state = .stopping ∨ (s.mv m).state = .fault, .busy)]) ∧
    (s.executes "ESTOP" ln fs → refusesInOrder (refuses (.estop ln)) (parseMoverOrAll fs) fun who =>
      [(∃ m, who = some m ∧ unconfigured m, .undefined)]) ∧
    (s.executes "ACKFAULT" ln fs → refusesInOrder (refuses (.ackfault ln)) (parseMover fs) fun m =>
      [(unconfigured m, .undefined),
       ((s.mv m).state = .fault ∧ ∃ f, (s.mv m).fault = some f ∧ f.stopComplete = false, .busy),
       ((s.mv m).state = .fault ∧ ∃ f, (s.mv m).fault = some f ∧ s.causeStands m f.primary, .causePresent)]) ∧
    (s.executes "STAGE" ln fs → refusesInOrder (refuses (.stage ln)) (parseMotion fs) fun a =>
      [(unconfigured a.1, .undefined), (s.pool.free = [], .poolEmpty),
       ((s.mv a.1).cfg.cap ≤ (s.mv a.1).chain.length, .chainFull)]) ∧
    (s.executes "FLUSH" ln fs → refusesInOrder (refuses (.flush ln)) (parseMover fs) fun m => [(unconfigured m, .undefined)]) ∧
    (s.executes "SETPOWER" ln fs → refusesInOrder (refuses (.setpower ln)) (parseSetpower fs) fun a =>
      [(∃ b, a.1 = some b ∧ b < s.grantedSum, .budgetInUse)]) ∧
    (s.executes "DEFRULE" ln fs → refusesInOrder (refuses (.defrule ln)) (parseDefrule fs) fun a =>
      let taken : Prop := ∃ r, s.rule a.1 = some r ∧ r.state ≠ .free
      match a.2 with
      | none => [(taken, .busy)]
      | some d =>
        [(d.g = d.k, .conflict), (unconfigured d.g ∨ unconfigured d.k, .undefined), (taken, .busy),
         ((s.mv d.g).atRest = false ∨ (s.mv d.k).atRest = false, .busy),
         ((s.mv d.g).positionUnset = true ∨ (s.mv d.k).positionUnset = true, .feedback),
         (((d.zlo : Int) * 1000 ≤ (s.mv d.g).p ∧ (s.mv d.g).p ≤ (d.zhi : Int) * 1000) ∧
            ((s.mv d.k).p < (d.rlo : Int) * 1000 ∨ (d.rhi : Int) * 1000 < (s.mv d.k).p), .conflict)]) ∧
    (s.executes "SETWX" ln fs → refusesInOrder (refuses (.setwx ln)) (parseSetwx fs) fun a =>
      [(∃ st ∈ a.1, unused st, .undefined),
       ((∃ st ∈ a.1, ∃ x, s.stn st = some x ∧ x.type ≠ .weather) ∨ ¬a.1.Nodup, .conflict)]) ∧
    (s.executes "SETPLAN" ln fs → refusesInOrder (refuses (.setplan ln)) (parseSetplan fs) fun a =>
      [(unconfigured a.1, .undefined)]) ∧
    (s.executes "SETTRIG" ln fs → refusesInOrder (refuses (.settrig ln)) (parseSettrig fs) fun a =>
      [(∃ m, a.1 = some m ∧ unconfigured m, .undefined)]) ∧
    (s.executes "DEFLINE" ln fs → refusesInOrder (refuses (.defline ln)) (parseDefline fs) fun a =>
      [(∃ m, s.tracksLie m a.1 ∧ (s.mv m).atRest = false, .busy),
       (a.2 = none ∧ ∃ st x, s.stn st = some x ∧ x.line = a.1 ∧ (x.source = true ∨ ∃ m, x.owner = some m ∧ ¬unconfigured m),
          .conflict),
       (∃ r, a.2 = some r ∧ (s.line a.1).polling = true ∧ s.period a.1 ≠ r.per ∧ ∃ m, s.tracksLie m a.1, .conflict)]) ∧
    (s.executes "DEFSTN" ln fs → refusesInOrder (refuses (.defstn ln)) (parseDefstn fs) fun a =>
      let owned (test : MoverNo → Station → Prop) : Prop := ∃ x m, s.stn a.1 = some x ∧ x.owner = some m ∧ test m x
      [(owned fun m _ => (s.mv m).atRest = false, .busy),
       (∃ x, s.stn a.1 = some x ∧ x.source = true, .conflict),
       (owned fun _ x => a.2 = none ∨ ∃ b, a.2 = some b ∧ (b.type ≠ x.type ∨ b.line ≠ x.line), .conflict),
       (∃ b o y, a.2 = some b ∧ s.stn o = some y ∧ o ≠ a.1 ∧ y.line = b.line ∧ y.addr = b.addr, .conflict),
       (∃ b, a.2 = some b ∧ 12 ≤ allStations.countP fun o => o != a.1 && (s.stn o).any fun y => y.line == b.line, .conflict)]) ∧
    (s.executes "SERVICE" ln fs → refusesInOrder (refuses (.service ln)) (parseService fs) fun a =>
      [(unused a.station, .undefined),
       (∃ x, s.stn a.station = some x ∧ (s.line x.line).polling = false, .conflict),
       (∃ x, s.stn a.station = some x ∧ 4 ≤ (s.line x.line).queue.length, .queueFull)]) ∧
    (s.executes "SUPERVISE" ln fs → refusesInOrder (refuses (.supervise ln)) (parseSupervise fs) fun a =>
      [(a ≠ none ∧ lost, .linkLost)]) ∧
    (s.executes "CLEARALL" ln fs → refusesInOrder (refuses (.clearall ln)) (parseNothing fs) fun _ =>
      [(∃ m, (s.mv m).atRest = false, .busy)])

/-- R165: a verb's line that is not next (an earlier line stands before it, or a reply of an execution still waits) is not executed: one
that stands in the buffer stays there, and the part is otherwise as it was. One that is given without having come through the buffer
joins it (model's choice, log entry 15). -/
def Obligations.LinesWaitTheirTurn : Prop :=
  ∀ v ∈ verbActs, ∀ (ln : CommandLine) (s : State), s.pins.resetLow = false →
    s.lineIsNext { verb := v.1.toList, ln := ln } = false →
    (s.link.inputBuffer.contains { verb := v.1.toList, ln := ln } = true →
      exec (v.2.1 ln) s = .next s.serveTransmitter) ∧
    (s.link.inputBuffer.contains { verb := v.1.toList, ln := ln } = false → s.link.inputBuffer.length < 4 →
      exec (v.2.1 ln) s =
        .next (State.serveTransmitter
          { s with link := { s.link with inputBuffer := s.link.inputBuffer ++ [{ verb := v.1.toList, ln := ln }] } }))

/-- R171: SUPERVISE ON=1 writes UP and LOW and starts the timer with UP; ON=0 turns supervision off and stops the timer, and UP, LOW
and the link-lost flag keep their values. Nothing else changes. R172: an executed BEAT is answered OK with no field and changes
nothing. -/
def Obligations.SuperviseSetsTheTimer : Prop :=
  (∀ (s : State) (ln : CommandLine), s.executes "BEAT" ln [] →
    exec (.beat ln) s = .next (s.leaveBuffer.answered (accepted ln []))) ∧
  ∀ (s : State) (ln : CommandLine) (fs : List Field), s.executes "SUPERVISE" ln fs →
    (∀ up low, parseSupervise fs = .ok (some (up, low)) → s.link.sup.lost = none →
      exec (.supervise ln) s =
        .next (State.answered
          { s.leaveBuffer with
            link := { s.leaveBuffer.link with sup := { on := true, up := some up, low := some low, timer := some up } }
            posted := s.posted.erase .supervisionTimerExpiry }
          (accepted ln [⟨"SUP", ['1']⟩, ⟨"UP", natText up⟩, ⟨"LOW", natText low⟩]))) ∧
    (parseSupervise fs = .ok none →
      exec (.supervise ln) s =
        .next (State.answered
          { s.leaveBuffer with
            link := { s.leaveBuffer.link with sup := { s.link.sup with on := false, timer := none } }
            posted := s.posted.erase .supervisionTimerExpiry }
          (accepted ln [⟨"SUP", ['0']⟩, ⟨"UP", orAbsent natText s.link.sup.up⟩, ⟨"LOW", orAbsent natText s.link.sup.low⟩])))

/-- R174: LINKSTAT reports the port as it stood before any clearing, and then sets the error count to 0 and, with supervision off,
clears the link-lost flag and its cause. Nothing else changes. -/
def Obligations.LinkstatReportsThenClears : Prop :=
  ∀ (s : State) (ln : CommandLine), s.executes "LINKSTAT" ln [] →
    let p := s.leaveBuffer.link
    exec (.linkstat ln) s =
      .next (State.answered
        { s.leaveBuffer with
          link :=
            { p with
              errors := 0
              sup := { p.sup with lost := if p.sup.on then p.sup.lost else none } } }
        (accepted ln
          [⟨"SUP", if p.sup.on then ['1'] else ['0']⟩,
           ⟨"MODE", if p.sup.on then (if p.sup.low.getD 0 = 0 then "SIMPLE" else "WINDOW").toList else ['-']⟩,
           ⟨"UP", orAbsent natText p.sup.up⟩, ⟨"LOW", orAbsent natText p.sup.low⟩, ⟨"LEFT", orAbsent natText p.sup.timer⟩,
           ⟨"LOST", if p.sup.lost.isSome then ['1'] else ['0']⟩,
           ⟨"CAUSE",
            match p.sup.lost with
            | none => "NONE".toList
            | some .timeout => "TIMEOUT".toList
            | some .early => "EARLY".toList⟩,
           ⟨"ERR", natText p.errors⟩, ⟨"BUF", natText p.inputBuffer.length⟩]))

/-- R175, R30, R56, R108, R125, R126, R160, R176, R185: with every mover at rest CLEARALL returns every block to its power-up values and
keeps the timebase, the pins, the line being received and the line on TXD, which clears the new first-line flag no more (model's choice,
log entry 21), and the receiver as it stands (log entry 6). The reply joins the empty reply queue, an idle transmitter begins to send
it, and then an open STOPIN sends SAFETY STOP_OPEN, so that the reply carries N only where it waits for a line on TXD (model's choice,
log entry 56). -/
def Obligations.ClearallReturnsToPowerUpValues : Prop :=
  ∀ (s : State) (ln : CommandLine), s.executes "CLEARALL" ln [] → (∀ m, (s.mv m).atRest = true) →
    let cleared : State :=
      { timebase := s.timebase
        pins := s.pins
        link := { receiver := s.link.receiver, tx := s.link.tx.map fun t => { t with carriesZ := false } }
        posted := s.posted.filter fun i => i == .transmitLineEnd
        pending := s.pending }
    let replied := cleared.answered (accepted ln [])
    exec (.clearall ln) s =
      .next (if s.pins.stopOpen then (replied.raise .stopOpen).serveTransmitter else replied)

/-- R183, R184, R53: SETNOTE empties and disables a class named with 0, enables a class named with 1 that was disabled, leaves the
others, and sets the log threshold, at which LOG_READY is sent if the arm is set and the log stands at or above it. -/
def Obligations.SetnoteSetsEnablesThenThreshold : Prop :=
  ∀ (s : State) (ln : CommandLine) (fs : List Field) (a : NoteArgs), s.executes "SETNOTE" ln fs → parseSetnote fs = .ok a →
    ∃ t : State, exec (.setnote ln) s =
      .next (t.answered (accepted ln
        [⟨"SAFETY", flagText (a.safety.getD s.notices.safety.enabled)⟩,
         ⟨"MOTION", flagText (a.motion.getD s.notices.motion.enabled)⟩,
         ⟨"WEATHER", flagText (a.weather.getD s.notices.weather.enabled)⟩,
         ⟨"LINE", flagText (a.line.getD s.notices.line.enabled)⟩,
         ⟨"LOGTHR", natText (a.logThreshold.getD s.notices.logThreshold)⟩])) ∧
      let set (q : ClassQueue) (b : Option Bool) : ClassQueue :=
        if b.getD q.enabled = q.enabled then q else { enabled := !q.enabled, queue := [], overflow := false }
      let n := s.pool.log.length
      let thr := a.logThreshold.getD s.notices.logThreshold
      let ready := a.logThreshold.isSome = true ∧ s.pool.logArm = true ∧ thr ≤ n
      let rearm := a.logThreshold.isSome = true ∧ s.pool.logArm = false ∧ n < thr
      t.notices.safety = set s.notices.safety a.safety ∧ t.notices.weather = set s.notices.weather a.weather ∧
      t.notices.line = set s.notices.line a.line ∧ t.notices.logThreshold = thr ∧
      t.notices.motion =
        (if ready then (set s.notices.motion a.motion).accept ⟨.logReady n, s.timebase⟩ else set s.notices.motion a.motion) ∧
      t.pool = { s.pool with logArm := if ready then false else if rearm then true else s.pool.logArm } ∧
      t.link = s.leaveBuffer.link ∧ t.movers = s.movers ∧ t.power = s.power ∧ t.rules = s.rules ∧ t.wx = s.wx ∧
      t.stations = s.stations ∧ t.lineA = s.lineA ∧ t.lineB = s.lineB ∧ t.posted = s.posted ∧ t.timebase = s.timebase

/-! ## Arithmetic of the chapters -/

/-- R68, R70: the braking velocity is the largest whole velocity from which the deceleration d brings the mover to v_end within the
distance, and over any run of updates the distances advanced and the last residue together are exactly the velocities times the
period. -/
def Obligations.ProfileArithmeticLosesNothing : Prop :=
  (∀ vEnd d dist v : Nat, v ≤ brakingVelocity vEnd d dist ↔ v * v ≤ vEnd * vEnd + 2000 * d * dist) ∧
  ∀ (vs : List Nat) (period residue : Nat),
    let run := vs.foldl
      (fun (a : Nat × Nat) v => (a.1 + (positionStep v period a.2).1, (positionStep v period a.2).2)) (0, residue)
    1000 * run.1 + run.2 = period * vs.sum + residue ∧ (residue < 1000 → run.2 < 1000)

/-- R129: with W1 below W2 and the hold CLEAR the derate percent is 100 up to W1 and 0 from W2, between them it is positive and falls
with the mean, and it is 0 while the hold is not CLEAR or the figure is absent. -/
def Obligations.DeratePercentFallsFromW1ToW2 : Prop :=
  ∀ t : WxThresholds, t.w1 < t.w2 →
    (∀ f : WindFigure, f.mean ≤ t.w1 → deratePercent .clear t (some f) = 100) ∧
    (∀ f : WindFigure, 0 < deratePercent .clear t (some f) ↔ f.mean < t.w2) ∧
    (∀ f : WindFigure, t.w1 < f.mean → f.mean < t.w2 →
      let w := deratePercent .clear t (some f)
      w ≤ 100 ∧ (100 - w) * (t.w2 - t.w1) ≤ (f.mean - t.w1) * 100 ∧ (f.mean - t.w1) * 100 < (101 - w) * (t.w2 - t.w1)) ∧
    (∀ f g : WindFigure, f.mean ≤ g.mean → deratePercent .clear t (some g) ≤ deratePercent .clear t (some f)) ∧
    (∀ hold f, hold ≠ .clear ∨ f = none → deratePercent hold t f = 0)

/-- R96, R97, R98: arbitration grants until it can grant no more. In PRIORITY the list is then empty or its head, the entry of lowest
PRIO and among equals the first to arrive, does not fit the free budget; in ROTATE no entry fits. The grants are made one after the
other, in PRIORITY each to the head, in ROTATE each to the first that fits from the pointer, which moves past it. The entries that still
wait keep their order; a granted one holds between its minimum and its request. -/
def Obligations.ArbitrationGrantsAllItCan : Prop :=
  ∀ s : State,
    let t := s.arbitrate
    (∃ es, State.grantsInTurn es s t) ∧
    t.power.mode = s.power.mode ∧ t.power.budget = s.power.budget ∧ t.power.waiting.Sublist s.power.waiting ∧
    (s.power.mode = .priority →
      t.power.waiting = [] ∨
      ∃ before e after, t.power.waiting = before ++ e :: after ∧ t.freeBudget < e.min ∧
        (∀ x ∈ before, (s.mv e.mover).cfg.prio < (s.mv x.mover).cfg.prio) ∧
        (∀ x ∈ after, (s.mv e.mover).cfg.prio ≤ (s.mv x.mover).cfg.prio)) ∧
    (s.power.mode = .rotate → ∀ e ∈ t.power.waiting, t.freeBudget < e.min) ∧
    (∀ m, (∀ e ∈ s.power.waiting, e.mover ≠ m) → t.grant m = s.grant m ∧ t.mv m = s.mv m) ∧
    ((s.power.waiting.map PowerRequest.mover).Nodup →
      ∀ e ∈ s.power.waiting, e.min ≤ e.req →
        (e ∈ t.power.waiting → t.grant e.mover = s.grant e.mover ∧ t.mv e.mover = s.mv e.mover) ∧
        (e ∉ t.power.waiting →
          e.min ≤ t.grant e.mover ∧ t.grant e.mover ≤ e.req ∧
          ((t.mv e.mover).state = .unlocking ∨ (t.mv e.mover).state = .releasing)))

/-! ## Frames -/

/-- R150, R177 (decode and encode agree): the payload of a frame is read back where the frame is expected, from its address, of its
kind, in its round, and what gives a payload is that frame and no other: one of another address, kind, round, length or CRC, or with a
bad stop bit, gives none. Every report of a station reads back from its payload as it was sent, and only the payload of a report of the
type is read as one. -/
def Obligations.ReportFramesAreReadBack : Prop :=
  (∀ (addr : Nat) (kind : Octet) (round : BitVec 8) (payload : List Octet),
    let octets := makeFrame addr kind round payload
    framePayload { octets := octets, badStop := false } addr kind round = some payload ∧
    (∀ a k r, framePayload { octets := octets, badStop := true } a k r = none) ∧
    (∀ a k r, BitVec.ofNat 8 a ≠ BitVec.ofNat 8 addr ∨ k ≠ kind ∨ r ≠ round →
      framePayload { octets := octets, badStop := false } a k r = none)) ∧
  (∀ (f : Frame) (addr : Nat) (kind : Octet) (round : BitVec 8) (payload : List Octet),
    framePayload f addr kind round = some payload → f.badStop = false ∧ f.octets = makeFrame addr kind round payload) ∧
  (∀ r : Report, r.wf → decodeReport r.type r.payload = some r ∧ ∀ t, t ≠ r.type → decodeReport t r.payload = none) ∧
  ∀ (t : StationType) (payload : List Octet) (r : Report),
    decodeReport t payload = some r → r.wf ∧ r.type = t ∧ payload = r.payload

/-! ## The verbs that report -/

/-- R54: POOLSTAT answers the state of the pool and changes nothing; where every slot is in one place, the four counts add up to 256. -/
def Obligations.PoolstatCountsTheSlots : Prop :=
  ∀ (s : State) (ln : CommandLine), s.executes "POOLSTAT" ln [] →
    let pend := (allMovers.map fun m => (s.mv m).chain.length).sum
    let running := allMovers.countP fun m => (s.mv m).exec.isSome
    exec (.poolstat ln) s =
      .next (s.leaveBuffer.answered (accepted ln
        [⟨"FREE", natText s.pool.free.length⟩, ⟨"PEND", natText pend⟩, ⟨"EXEC", natText running⟩,
         ⟨"LOG", natText s.pool.log.length⟩,
         ⟨"CHAINS",
          joinText ',' (allMovers.map fun m =>
            if (s.mv m).state = .unconfigured then ['-'] else natText (s.mv m).chain.length)⟩,
         ⟨"LOGTHR", natText s.notices.logThreshold⟩])) ∧
    running ≤ 8 ∧ (s.poolSound → s.pool.free.length + pend + running + s.pool.log.length = 256)

/-- R107: POWERSTAT answers the state of the arbiter and changes nothing; where the grants are within the budget, USED and FREE add up to
BUDGET. That HEAD is left out of the reply in ROTATE is the model's reading (log entry 41). -/
def Obligations.PowerstatReportsTheArbiter : Prop :=
  ∀ (s : State) (ln : CommandLine), s.executes "POWERSTAT" ln [] →
    let used := (allMovers.map s.grant).sum
    let free := s.power.budget - used
    exec (.powerstat ln) s =
      .next (s.leaveBuffer.answered (accepted ln
        ([⟨"BUDGET", natText s.power.budget⟩,
          ⟨"MODE", (match s.power.mode with | .priority => "PRIORITY" | .rotate => "ROTATE").toList⟩,
          ⟨"USED", natText used⟩, ⟨"FREE", natText free⟩,
          ⟨"GRANTS",
           joinText ',' (allMovers.map fun m => if (s.mv m).state = .unconfigured then ['-'] else natText (s.grant m))⟩,
          ⟨"WAIT",
           if s.power.waiting = [] then "NONE".toList
           else joinText ',' (s.power.waiting.map fun e =>
             moverText e.mover ++ '/' :: natText e.req ++ '/' :: natText e.min)⟩] ++
         (if s.power.mode = .priority then [⟨"HEAD", moverOrNone (s.powerHead.map PowerRequest.mover)⟩] else []) ++
         [⟨"ROT", moverText s.power.pointer⟩]))) ∧
    (s.powerSound → used + free = s.power.budget)

/-- R124: RULESTAT answers a rule, or every defined rule in number order, and changes nothing; a number outside 0..15 is refused. G and K
are written as DEFRULE takes them, the holder and the waiting movers as M0..M7 (model's reading, log entry 30). -/
def Obligations.RulestatReportsTheRules : Prop :=
  ∀ (s : State) (ln : CommandLine) (fs : List Field), s.executes "RULESTAT" ln fs →
    let stateWord (r : Rule) : Text :=
      (match r.state with | .free => "OPEN" | .held => "HELD" | .released => "RELEASED").toList
    let holder (r : Rule) : Text :=
      match r.state with | .free => "NONE".toList | .held => moverText r.g | .released => moverText r.k
    (∀ x : Int, fs = [{ name := "C".toList, value := intText x }] → x.natAbs < 10000000000 →
      (x < 0 ∨ 15 < x → exec (.rulestat ln) s = .next (s.leaveBuffer.answered (refusal ln.tag .range))) ∧
      (∀ c : RuleNo, x = c.val →
        (s.rule c = none →
          exec (.rulestat ln) s =
            .next (s.leaveBuffer.answered (accepted ln [⟨"C", natText c.val⟩, ⟨"STATE", "NONE".toList⟩]))) ∧
        (∀ r, s.rule c = some r →
          exec (.rulestat ln) s =
            .next (s.leaveBuffer.answered (accepted ln
              [⟨"C", natText c.val⟩, ⟨"G", natText r.g.val⟩, ⟨"ZLO", natText r.zlo⟩, ⟨"ZHI", natText r.zhi⟩,
               ⟨"K", natText r.k.val⟩, ⟨"RLO", natText r.rlo⟩, ⟨"RHI", natText r.rhi⟩, ⟨"STATE", stateWord r⟩,
               ⟨"HOLDER", holder r⟩,
               ⟨"WAIT",
                if r.waiting = [] then "NONE".toList
                else joinText ',' (r.waiting.map fun m =>
                  moverText m ++ '/' :: (if r.g = m then "CLAIM" else "RELEASE").toList)⟩]))))) ∧
    (fs = [] →
      let entries := allRules.filterMap fun c =>
        (s.rule c).map fun r => ruleText c ++ '/' :: stateWord r ++ '/' :: holder r
      exec (.rulestat ln) s =
        .next (s.leaveBuffer.answered (accepted ln
          [⟨"RULES", if entries = [] then "NONE".toList else joinText ',' entries⟩])))

/-- R29, R140, R159: MOVERSTAT, WXSTAT, LINESTAT and STNSTAT answer what stands in the part and change nothing. FP and FMEAN are in mm, a
source without a report shows NONE, and RELLEFT is left out of the reply outside RELEASING (model's reading, log entries 29, 19 and 41);
FSEC lists its kinds in the order of detection, HOLD its reasons in that of R13's table (model's choice, log entries 43 and 44). -/
def Obligations.StatusVerbsReportAndChangeNothing : Prop :=
  ∀ (s : State) (ln : CommandLine) (fs : List Field),
    let orNone (ts : List Text) : Text := if ts = [] then "NONE".toList else joinText ',' ts
    let given {α : Type} (f : α → Nat) (x : Option α) : Text := (x.map fun a => natText (f a)).getD ['-']
    (∀ m, s.executes "MOVERSTAT" ln fs → parseMover fs = .ok m →
      let x := s.mv m
      let faults : List OutField :=
        match x.fault with
        | none => [⟨"FAULT", "NONE".toList⟩]
        | some f =>
          [⟨"FAULT", f.primary.word.toList⟩, ⟨"FTIME", natText f.time.toNat⟩, ⟨"FP", intText (f.p.tdiv 1000)⟩,
           ⟨"FMEAN", (f.mean.map fun y => intText (y.tdiv 1000)).getD ['-']⟩,
           ⟨"FSEC", orNone (f.secondary.map fun k => k.word.toList)⟩, ⟨"FSTOP", flagText f.stopComplete⟩]
      exec (.moverstat ln) s =
        .next (s.leaveBuffer.answered (accepted ln
          (if x.state = .unconfigured then [⟨"STATE", "UNCONFIGURED".toList⟩]
           else
            [⟨"STATE", x.state.word.toList⟩] ++
            (if x.state = .holding then
              [⟨"BRK", flagText x.brakeOrdered⟩] ++ (if x.stopInProgress = true then [⟨"STOPPING", ['1']⟩] else [])
             else []) ++
            [⟨"HOLD", x.holdSet.text⟩, ⟨"P", intText (x.p.tdiv 1000)⟩] ++
            (if x.positionUnset = true then [⟨"UNSET", ['1']⟩] else []) ++
            [⟨"MEAN", (x.trim.map fun t => intText (t.mean.tdiv 1000)).getD ['-']⟩, ⟨"VEL", intText (x.signedV.tdiv 1000)⟩,
             ⟨"SKEW", (x.trim.map fun t => intText (t.skew.tdiv 1000)).getD ['-']⟩, ⟨"SKWARN", flagText x.skewWarn⟩,
             ⟨"GRANT", natText (s.grant m)⟩, ⟨"CHAIN", natText x.chain.length⟩,
             ⟨"EXEC", (x.exec.map fun e => natText e.seg.tag).getD "NONE".toList⟩] ++ faults ++
            [⟨"TRIG", flagText (s.trig m).masked⟩, ⟨"TPEND", flagText (s.trig m).pendingFlag⟩])))) ∧
    (s.executes "WXSTAT" ln [] →
      exec (.wxstat ln) s =
        .next (s.leaveBuffer.answered (accepted ln
          ([⟨"SRC", orNone (s.wx.sources.map fun st =>
              stationText st ++ '/' ::
                (match s.stn st with
                 | some x => if x.report = none then "NONE" else x.health.word
                 | none => "NONE").toList)⟩,
            ⟨"LIVE", natText s.liveSources.length⟩, ⟨"MEAN", given WindFigure.mean s.wx.figure⟩,
            ⟨"GUST", given WindFigure.gust s.wx.figure⟩, ⟨"W", natText s.wx.derate⟩,
            ⟨"W1", given WxThresholds.w1 s.wx.thresholds⟩, ⟨"W2", given WxThresholds.w2 s.wx.thresholds⟩,
            ⟨"GH", given WxThresholds.gh s.wx.thresholds⟩, ⟨"REL", given WxThresholds.rel s.wx.thresholds⟩,
            ⟨"HOLD", s.wx.hold.word.toList⟩] ++
           (if s.wx.hold = .releasing then [⟨"RELLEFT", natText (s.wx.releaseTimer.getD 0)⟩] else []) ++
           [⟨"RAIN", if s.wx.wet then "WET".toList else "DRY".toList⟩,
            ⟨"PLANS", orNone (s.configuredMovers.filterMap fun m => (s.trig m).plan.map fun p =>
              moverText m ++ '/' :: natText p.tag ++ '/' :: flagText (s.trig m).masked ++ '/' ::
                flagText (s.trig m).pendingFlag)⟩])))) ∧
    (∀ l, s.executes "LINESTAT" ln fs → parseLinestat fs = .ok l →
      let c := s.line l
      exec (.linestat ln) s =
        .next (s.leaveBuffer.answered (accepted ln
          [⟨"L", lineWord l⟩, ⟨"STATE", if c.polling then "POLLING".toList else "OFF".toList⟩,
           ⟨"PER", given LineSettings.per c.record⟩, ⟨"TMO", given LineSettings.tmo c.record⟩,
           ⟨"MISS", given LineSettings.miss c.record⟩, ⟨"ROUND", natText c.round.toNat⟩, ⟨"OVR", flagText c.overrun⟩,
           ⟨"SVCQ", natText c.queue.length⟩,
           ⟨"SVCID", match c.phase with | .serviceExchange r => natText r.id.toNat | _ => "NONE".toList⟩,
           ⟨"STNS", orNone (allStations.filterMap fun st => (s.stn st).bind fun x =>
              if x.line = l then some (stationText st ++ '/' :: natText x.addr ++ '/' :: x.health.word.toList)
              else none)⟩]))) ∧
    (∀ st, s.executes "STNSTAT" ln fs → parseStnstat fs = .ok st →
      exec (.stnstat ln) s =
        .next (s.leaveBuffer.answered (accepted ln
          (match s.stn st with
           | none => [⟨"ST", natText st.val⟩, ⟨"STATE", "UNUSED".toList⟩]
           | some x =>
             [⟨"ST", natText st.val⟩, ⟨"LINE", lineWord x.line⟩, ⟨"ADDR", natText x.addr⟩, ⟨"TYPE", x.type.word.toList⟩,
              ⟨"OWNER", (x.owner.map moverText).getD "NONE".toList⟩, ⟨"SRC", flagText x.source⟩,
              ⟨"STATE", x.health.word.toList⟩, ⟨"MISS", natText x.misses⟩,
              ⟨"RT", given (fun r : StoredReport => r.time.toNat) x.report⟩,
              ⟨"REP", (x.report.map fun r => r.report.text).getD "NONE".toList⟩, ⟨"ORD", x.image.text⟩]))))

/-! ## The Segment Pool -/

/-- R34, R35, R39, R40, R112 to R114, R116, R118: STAGE takes the top free slot, clamps the values against the record in force, and puts the
segment at the tail of the chain. Where it becomes the look-ahead of a running mover, each rule its path needs and the mover does not have
is granted, or the mover waits on it, with MOTION CLEARANCE_WAIT where it did not wait before. Nothing else changes. R112 to R114: what a
path covers, which rule it needs, which mover has a rule, and how a rule answers. -/
def Obligations.StageFillsTheTopFreeSlot : Prop :=
  (∀ x : Mover,
    (∀ e, x.exec = some e → x.execPath = some (x.covers e.seg.kind e.part.pathStart e.part.startTime.isSome)) ∧
    (∀ e g rest, x.state = .running → x.exec = some e → x.chain = g :: rest →
      x.lookaheadPath = match e.seg.kind with | .move .. => some (x.covers g.kind none false) | _ => none) ∧
    (x.state ≠ .running ∨ x.exec = none ∨ x.chain = [] → x.lookaheadPath = none)) ∧
  (∀ (s : State) (r : Rule) (m : MoverNo),
    (∀ q : Path, r.needs m q = true ↔
      (r.g = m ∧ (r.zlo : Int) * 1000 ≤ q.hi ∧ q.lo ≤ (r.zhi : Int) * 1000) ∨
        (r.k = m ∧ (q.lo < (r.rlo : Int) * 1000 ∨ (r.rhi : Int) * 1000 < q.hi))) ∧
    (r.has m = true ↔ (r.g = m ∧ r.state = .held) ∨ (r.k = m ∧ r.state = .released)) ∧
    (r.has m = false → r.g = m ∨ r.k = m → ∀ st, s.grantedState r m = some st ↔ s.wouldGrant r m st)) ∧
  ∀ (s : State) (ln : CommandLine) (fs : List Field) (m : MoverNo) (mo : Motion) (slot : SlotNo) (rest : List SlotNo),
    s.executes "STAGE" ln fs → parseMotion fs = .ok (m, mo) → (s.mv m).state ≠ .unconfigured → s.pool.free = slot :: rest →
    (s.mv m).chain.length < (s.mv m).cfg.cap →
    let r := (s.mv m).cfg
    ∃ (seg : Segment) (t : State),
      exec (.stage ln) s =
        .next (t.answered
          { tag := ln.tag, form := if seg.clamps = [] then .ok else .clamped seg.clamps
            fields :=
              [⟨"SLOT", natText slot.val⟩, ⟨"CHAIN", natText ((s.mv m).chain.length + 1)⟩, ⟨"FREE", natText rest.length⟩]
            full := false }) ∧
      seg.slot = slot ∧ seg.mover = m ∧ seg.tag = mo.tag ∧ seg.lock = mo.lock ∧ seg.origin = .staged ∧
      (∀ target v a d, mo.kind = .move target v a d →
        seg.kind =
          .move (if target < r.lo then (r.lo : Int) else if (r.hi : Int) < target then (r.hi : Int) else target)
            (min (v.getD r.vmax) r.vmax) (min (a.getD r.amax) r.amax) (min (d.getD r.dmax) r.dmax) ∧
        seg.clamps =
          (if target < r.lo ∨ (r.hi : Int) < target then [.target] else []) ++
          (if r.vmax < v.getD 0 then [.v] else []) ++ (if r.amax < a.getD 0 then [.a] else []) ++
          (if r.dmax < d.getD 0 then [.d] else [])) ∧
      (∀ n, mo.kind = .dwell n → seg.kind = .dwell (min n 600000) ∧ seg.clamps = if 600000 < n then [.t] else []) ∧
      (mo.kind = .align → seg.kind = .align ∧ seg.clamps = []) ∧
      let x : Mover := { s.mv m with chain := (s.mv m).chain ++ [seg] }
      t = { s.leaveBuffer with
        pool := { s.pool with free := rest }, movers := s.movers.set m.val x, rules := t.rules, notices := t.notices } ∧
      ((s.mv m).chain ≠ [] ∨ x.lookahead = none → t.rules = s.rules ∧ t.notices = s.notices) ∧
      ((s.mv m).chain = [] → t.notices = s.noticesWait m (s.refusers m x.lookaheadPath) s.notices) ∧
      ((s.mv m).chain = [] → ∀ c, (s.rule c = none → t.rule c = none) ∧ ∀ u, s.rule c = some u →
        (u.neededBy m x.lookaheadPath = false ∨ u.has m = true → t.rule c = some u) ∧
        (u.neededBy m x.lookaheadPath = true → u.has m = false →
          (∀ st, s.grantedState u m = some st →
            t.rule c = some { u with state := st, refused := u.refused.filter (· ≠ m) }) ∧
          (s.grantedState u m = none → t.rule c = some (u.keepsWaiting m))))

/-- R46, R48, R53: FLUSH logs every pending segment FLUSHED, head first, and leaves the chain empty; with the log's threshold test, that
is all it does. LOG= of a LOG_READY is the model's reading (log entry 36). -/
def Obligations.FlushLogsThePendingSegments : Prop :=
  ∀ (s : State) (ln : CommandLine) (fs : List Field) (m : MoverNo), s.executes "FLUSH" ln fs → parseMover fs = .ok m →
    (s.mv m).state ≠ .unconfigured →
    ∃ t : State,
      exec (.flush ln) s = .next (t.answered (accepted ln [⟨"FLUSHED", natText (s.mv m).chain.length⟩])) ∧
      s.logsMore t ((s.mv m).chain.map (flushedRecord s.timebase)) ∧
      t = { s.leaveBuffer with
        movers := s.movers.set m.val { s.mv m with chain := [] }, pool := t.pool, notices := t.notices }

/-- R51, R52, R53: LOGREAD returns the oldest records, up to N of them. Their slots join the top of the free list, the slot of the newest
record read on top, and the threshold test is made. Nothing else changes. That the reply of an empty log carries LEFT=0 beside N=0 is
the model's reading (log entry 27). -/
def Obligations.LogreadFreesTheOldestSlots : Prop :=
  ∀ (s : State) (ln : CommandLine) (fs : List Field) (k : Nat), s.executes "LOGREAD" ln fs → parseLogread fs = .ok k →
    1 ≤ k ∧ k ≤ 8 ∧
    let rs := s.pool.log.take k
    let left := s.pool.log.length - rs.length
    let ready := s.pool.logArm = true ∧ s.notices.logThreshold ≤ left
    let rearm := s.pool.logArm = false ∧ left < s.notices.logThreshold
    exec (.logread ln) s =
      .next (State.answered
        { s.leaveBuffer with
          pool :=
            { free := (rs.map fun r => r.seg.slot).reverse ++ s.pool.free, log := s.pool.log.drop k
              logArm := if ready then false else if rearm then true else s.pool.logArm }
          notices :=
            if ready then { s.notices with motion := s.notices.motion.accept ⟨.logReady left, s.timebase⟩ } else s.notices }
        (accepted ln
          ([⟨"N", natText rs.length⟩, ⟨"LEFT", natText left⟩] ++ rs.map fun r => ⟨"REC", r.text⟩)))

/-! ## The Power Arbiter -/

/-- R104, R105: SETPOWER writes the mode and the budget; a raised budget runs the arbitration in the mode just set, and otherwise no
grant changes. The reply gives what stands after it. -/
def Obligations.SetpowerArbitratesOnARaisedBudget : Prop :=
  ∀ (s : State) (ln : CommandLine) (fs : List Field) (budget : Option Nat) (mode : Option PowerMode),
    s.executes "SETPOWER" ln fs → parseSetpower fs = .ok (budget, mode) → (∀ b, budget = some b → s.grantedSum ≤ b) →
    let base : State :=
      { s.leaveBuffer with
        power := { s.power with mode := mode.getD s.power.mode, budget := budget.getD s.power.budget } }
    let reply (t : State) : Reply :=
      let used := (allMovers.map t.grant).sum
      accepted ln
        [⟨"BUDGET", natText (budget.getD s.power.budget)⟩,
         ⟨"MODE", (match mode.getD s.power.mode with | .priority => "PRIORITY" | .rotate => "ROTATE").toList⟩,
         ⟨"USED", natText used⟩, ⟨"FREE", natText (budget.getD s.power.budget - used)⟩]
    (budget.getD s.power.budget ≤ s.power.budget → exec (.setpower ln) s = .next (base.answered (reply base))) ∧
    (s.power.budget < budget.getD s.power.budget →
      exec (.setpower ln) s = .next (base.arbitrate.answered (reply base.arbitrate)))

/-! ## The Clearance Table -/

/-- R110, R111: DEFRULE with all its fields defines the rule, with an empty list and its state from the two movers' p; with C alone it
deletes a rule that is OPEN, or none. Nothing else changes. -/
def Obligations.DefruleDefinesAndDeletes : Prop :=
  ∀ (s : State) (ln : CommandLine) (fs : List Field) (c : RuleNo), s.executes "DEFRULE" ln fs →
    (∀ r, s.rule c = some r → r.state = .free) →
    (parseDefrule fs = .ok (c, none) →
      exec (.defrule ln) s =
        .next (State.answered { s.leaveBuffer with rules := s.rules.set c.val none }
          (accepted ln [⟨"C", natText c.val⟩, ⟨"STATE", "NONE".toList⟩]))) ∧
    (∀ a : RuleArgs, parseDefrule fs = .ok (c, some a) → a.g ≠ a.k →
      (∀ m, m = a.g ∨ m = a.k →
        (s.mv m).state ≠ .unconfigured ∧ (s.mv m).atRest = true ∧ (s.mv m).positionUnset = false) →
      let inZone := (a.zlo : Int) * 1000 ≤ (s.mv a.g).p ∧ (s.mv a.g).p ≤ (a.zhi : Int) * 1000
      let inRegion := (a.rlo : Int) * 1000 ≤ (s.mv a.k).p ∧ (s.mv a.k).p ≤ (a.rhi : Int) * 1000
      (inZone ∧ ¬inRegion → exec (.defrule ln) s = .next (s.leaveBuffer.answered (refusal ln.tag .conflict))) ∧
      ∀ (st : RuleState) (w : String),
        (inZone ∧ inRegion ∧ st = .held ∧ w = "HELD") ∨ (¬inZone ∧ inRegion ∧ st = .free ∧ w = "OPEN") ∨
          (¬inZone ∧ ¬inRegion ∧ st = .released ∧ w = "RELEASED") →
        exec (.defrule ln) s =
          .next (State.answered
            { s.leaveBuffer with
              rules := s.rules.set c.val (some
                { g := a.g, zlo := a.zlo, zhi := a.zhi, k := a.k, rlo := a.rlo, rhi := a.rhi, state := st, waiting := [] }) }
            (accepted ln [⟨"C", natText c.val⟩, ⟨"STATE", w.toList⟩])))

/-! ## The Weather Monitor -/

/-- R135, R136, R139: SETPLAN stores the plan as written, or deletes it and with it the pending trigger; SETTRIG sets the mask of one
configured mover, or of all of them, and masking clears the pending trigger. Nothing else changes. -/
def Obligations.PlansAndMasksAreStored : Prop :=
  ∀ (s : State) (ln : CommandLine) (fs : List Field),
    let withTriggers (f : MoverNo → Trigger) : State :=
      { s.leaveBuffer with wx := { s.wx with triggers := Vector.ofFn f } }
    (∀ m plan, s.executes "SETPLAN" ln fs → parseSetplan fs = .ok (m, plan) → (s.mv m).state ≠ .unconfigured →
      exec (.setplan ln) s =
        .next ((withTriggers fun w =>
            if w = m then
              { s.trig m with plan := plan, pendingFlag := if plan = none then false else (s.trig m).pendingFlag }
            else s.trig w).answered
          (accepted ln
            [⟨"M", natText m.val⟩,
             ⟨"TAG", match plan with | some p => natText p.tag | none => "NONE".toList⟩]))) ∧
    (∀ who mask, s.executes "SETTRIG" ln fs → parseSettrig fs = .ok (who, mask) →
      (∀ m, who = some m → (s.mv m).state ≠ .unconfigured) →
      exec (.settrig ln) s =
        .next ((withTriggers fun w =>
            if who = some w ∨ (who = none ∧ (s.mv w).state ≠ .unconfigured) then
              { s.trig w with masked := mask, pendingFlag := if mask = true then false else (s.trig w).pendingFlag }
            else s.trig w).answered
          (accepted ln
            [⟨"M", match who with | some m => natText m.val | none => "ALL".toList⟩,
             ⟨"MASK", if mask then ['1'] else ['0']⟩])))

/-- R127 to R131: SETWX replaces sources and thresholds, marks exactly the named stations, forms the figure and the derate percent, and
tests the hold: CLEAR engages by MEAN, GUST or NOSOURCE with WIND posted to every configured EXPOSED mover, ENGAGED stays, and RELEASING
falls back unless the figure is calm. NO_SOURCE is sent where the last live source is gone, before WIND_HOLD (model's reading, log entry
20). WIND is posted in mover number order (model's choice, log entry 40). The figure has the largest MEAN and the largest GUST of the
live sources, and is absent where none is live. -/
def Obligations.SetwxTestsTheHold : Prop :=
  ∀ (s : State) (ln : CommandLine) (fs : List Field) (src : List StationNo) (thr : WxThresholds),
    s.executes "SETWX" ln fs → parseSetwx fs = .ok (src, thr) → src.Nodup →
    (∀ st ∈ src, ∃ x, s.stn st = some x ∧ x.type = .weather) →
    let now : State := { s with wx := { s.wx with sources := src } }
    let figure := now.windFigure
    let cause : Option WindCause :=
      match figure with
      | none => some .noSource
      | some f => if thr.w2 ≤ f.mean then some .mean else if thr.gh ≤ f.gust then some .gust else none
    let calm := ∃ f, figure = some f ∧ f.mean < thr.w1 ∧ f.gust < thr.gh
    let gone := s.liveSources ≠ [] ∧ now.liveSources = []
    let weather := if gone then s.notices.weather.accept ⟨.noSource, s.timebase⟩ else s.notices.weather
    ∃ t : State,
      exec (.setwx ln) s =
        .next (t.answered (accepted ln [⟨"HOLD", t.wx.hold.word.toList⟩, ⟨"W", natText t.wx.derate⟩])) ∧
      now.windIs figure ∧ (∀ st, st ∈ now.liveSources ↔ now.live st) ∧
      t.wx =
        { s.wx with
          sources := src, thresholds := some thr, figure := figure, derate := deratePercent t.wx.hold thr figure
          hold := t.wx.hold, releaseTimer := t.wx.releaseTimer } ∧
      (∀ c, s.wx.hold = .clear → cause = some c →
        t.wx.hold = .engaged ∧ t.wx.releaseTimer = s.wx.releaseTimer ∧
        t.notices = { s.notices with weather := weather.accept ⟨.windHold c figure, s.timebase⟩ } ∧
        t.posted = s.posted ++ s.exposedMovers.map fun m => .holdReasonAddition m .wind) ∧
      ((s.wx.hold = .clear ∧ cause = none) ∨ s.wx.hold = .engaged ∨ (s.wx.hold = .releasing ∧ calm) →
        t.wx.hold = s.wx.hold ∧ t.wx.releaseTimer = s.wx.releaseTimer ∧
        t.notices = { s.notices with weather := weather } ∧ t.posted = s.posted) ∧
      (s.wx.hold = .releasing → ¬calm →
        t.wx.hold = .engaged ∧ t.wx.releaseTimer = none ∧ t.notices = { s.notices with weather := weather } ∧
        t.posted = s.posted.erase .releaseTimerExpiry) ∧
      (∀ st, t.stn st = (s.stn st).map fun x => { x with source := decide (st ∈ src) }) ∧
      t.link = s.leaveBuffer.link ∧ t.movers = s.movers ∧ t.pool = s.pool ∧ t.power = s.power ∧ t.rules = s.rules ∧
      t.lineA = s.lineA ∧ t.lineB = s.lineB ∧ t.serviceId = s.serviceId ∧ t.timebase = s.timebase ∧ t.pins = s.pins ∧
      t.pending = s.pending

/-! ## The track lines and the Station Table -/

/-- R143, R144, R158: DEFLINE by the state of the line. L alone leaves an OFF line as it is and turns a POLLING line OFF, its timers
stopped and its round abandoned; the settings turn an OFF line on, with the first round at once and MISS in effect at its stations, and
wait at a POLLING line for its next round. The requests of the line are discarded with RES=NOREPLY, before the other effects (model's
reading, log entry 32), and where a service was in flight the round of a line that stays POLLING ends. The stations that a new MISS makes
LOST are taken in number order, after a LINE OVERRUN of the same event, and a frame is sent, its response timer started, in the event
that begins its exchange (model's choices, log entries 42, 53 and 8). -/
def Obligations.DeflineActsByTheLinesState : Prop :=
  ∀ (s : State) (ln : CommandLine) (fs : List Field) (l : LineId) (r : Option LineSettings),
    s.executes "DEFLINE" ln fs → parseDefline fs = .ok (l, r) →
    (∀ m, (s.mv m).state ≠ .unconfigured → (s.mv m).atRest = false →
      ∀ st ∈ (s.mv m).cfg.tracks, ∀ x, s.stn st = some x → x.line ≠ l) →
    let u := s.leaveBuffer
    let discarded := s.notices.line.discards (s.line l).requests s.timebase
    let reply (polling : Bool) (c : Option LineSettings) : Reply :=
      accepted ln
        [⟨"L", lineWord l⟩, ⟨"STATE", if polling then "POLLING".toList else "OFF".toList⟩,
         ⟨"PER", (c.map fun r => natText r.per).getD ['-']⟩, ⟨"TMO", (c.map fun r => natText r.tmo).getD ['-']⟩,
         ⟨"MISS", (c.map fun r => natText r.miss).getD ['-']⟩]
    (r = none →
      (∀ st x, s.stn st = some x → x.line = l → x.source = false ∧ ∀ m, x.owner = some m → (s.mv m).state = .unconfigured) →
      ((s.line l).polling = false → (s.line l).requests = [] →
        exec (.defline ln) s = .next (u.answered (reply false (s.line l).record))) ∧
      ((s.line l).polling = true →
        ∃ t : State, exec (.defline ln) s = .next (t.answered (reply false (s.line l).record)) ∧
          t.line l =
            { s.line l with
              polling := false, period := none, overdue := false, overrun := false, phase := .betweenRounds
              response := none, queue := [] } ∧
          (∀ i ∈ s.posted, i ≠ .linePeriodExpiry l → i ≠ .responseTimeout l → i ≠ .serviceTimeout l → i ∈ t.posted) ∧
          LineFrame u t l ∧ t.stations = s.stations ∧ t.movers = s.movers ∧ t.notices.line = discarded)) ∧
    (∀ c, r = some c → (s.line l).polling = false → (s.line l).phase = .betweenRounds → (s.line l).queue = [] →
      ∃ t : State, exec (.defline ln) s = .next (t.answered (reply true (some c))) ∧
        s.beginsRound t l { s.line l with record := some c, polling := true } c ∧ LineFrame u t l ∧ t.movers = s.movers ∧
        s.settingsTake t l (s.line l) c s.notices.line ∧
        ((s.line l).current.miss = c.miss → t.posted = s.posted.erase (.linePeriodExpiry l))) ∧
    (∀ c, r = some c → (s.line l).polling = true →
      (s.period l = c.per ∨
        ∀ m, (s.mv m).state ≠ .unconfigured → ∀ st ∈ (s.mv m).cfg.tracks, ∀ x, s.stn st = some x → x.line ≠ l) →
      ∃ t : State, exec (.defline ln) s = .next (t.answered (reply true (some c))) ∧ LineFrame u t l ∧ t.movers = s.movers ∧
        ((∀ q, (s.line l).phase ≠ .serviceExchange q) →
          t.line l = { s.line l with record := some c, queue := [] } ∧ t.stations = s.stations ∧
          t.notices.line = discarded ∧ t.posted = s.posted) ∧
        (∀ q, (s.line l).phase = .serviceExchange q →
          s.roundEnds t l { s.line l with record := some c, queue := [], phase := .betweenRounds, response := none } discarded))

/-- R146, R147, R145, R153, R158, R144: DEFSTN defines a station record STALE, with no report, no miss and the image of a station of no
mover, keeping an owner, whose position becomes unset; ST alone deletes the record. The requests for the station are discarded with
RES=NOREPLY. An exchange with it is abandoned with no result: the line goes on with its next station, or, where a service was in flight,
its round ends; the SERVICE notices go before a LINE OVERRUN, and that before the STATION_LOST notices of a new MISS that the next round
brings into force (model's readings and choices, log entries 11, 32, 42 and 53). A frame is sent, its response timer started, in the event
that begins its exchange (model's choice, log entry 8). -/
def Obligations.DefstnDefinesAndDeletes : Prop :=
  ∀ (s : State) (ln : CommandLine) (fs : List Field) (st : StationNo) (a : Option StationArgs),
    s.executes "DEFSTN" ln fs → parseDefstn fs = .ok (st, a) →
    (∀ x, s.stn st = some x →
      x.source = false ∧ ∀ m, x.owner = some m → (s.mv m).atRest = true ∧ ∃ b, a = some b ∧ b.type = x.type ∧ b.line = x.line) →
    (∀ b, a = some b →
      (∀ o y, s.stn o = some y → o ≠ st → y.line = b.line → y.addr ≠ b.addr) ∧
      (allStations.countP fun o => o != st && (s.stn o).any fun y => y.line == b.line) < 12) →
    let owner := (s.stn st).bind Station.owner
    let reply : Reply := accepted ln [⟨"ST", natText st.val⟩, ⟨"STATE", if a = none then "UNUSED".toList else "STALE".toList⟩]
    let defined : State :=
      { s.leaveBuffer with
        stations := s.stations.set st.val (a.map fun b =>
          { line := b.line, addr := b.addr, type := b.type, owner := owner, source := false, health := .stale, misses := 0
            report := none
            image := match b.type with | .drive => .drive 0 .apply .normal | .lock => .lock .keep | .weather => .weather })
        movers := Vector.ofFn fun m =>
          if owner = some m then { s.mv m with positionUnset := true } else s.mv m }
    ((∀ x, s.stn st = some x →
        (s.line x.line).phase ≠ .exchange st ∧ ∀ r ∈ (s.line x.line).requests, r.station ≠ st) →
      exec (.defstn ln) s = .next (defined.answered reply)) ∧
    ∀ x, s.stn st = some x →
      let c := s.line x.line
      let q := s.notices.line.discards (c.requests.filter fun r => r.station = st) s.timebase
      let kept := c.queue.filter fun r => r.station ≠ st
      ∃ t : State, exec (.defstn ln) s = .next (t.answered reply) ∧ LineFrame s.leaveBuffer t x.line ∧
        t.movers = defined.movers ∧
        (∀ i ∈ s.posted, i ≠ .responseTimeout x.line → i ≠ .serviceTimeout x.line → i ≠ .linePeriodExpiry x.line →
          i ∈ t.posted) ∧
        (c.phase = .exchange st → defined.roundGoesOn t x.line (st.val + 1) { c with response := none, queue := kept } q) ∧
        (∀ r, c.phase = .serviceExchange r → r.station = st →
          defined.roundEnds t x.line { c with phase := .betweenRounds, response := none, queue := kept } q) ∧
        (c.phase ≠ .exchange st → (∀ r, c.phase = .serviceExchange r → r.station ≠ st) →
          t.line x.line = { c with queue := kept } ∧ t.notices.line = q ∧ t.stations = defined.stations)

/-- R157: SERVICE puts the request at the tail of the line's queue with the next identifier, which the reply gives. -/
def Obligations.ServiceJoinsTheQueue : Prop :=
  ∀ (s : State) (ln : CommandLine) (fs : List Field) (a : ServiceArgs) (x : Station), s.executes "SERVICE" ln fs →
    parseService fs = .ok a → s.stn a.station = some x → (s.line x.line).polling = true → (s.line x.line).queue.length < 4 →
    (a.val.isSome = true ↔ a.write = true) ∧
    exec (.service ln) s =
      .next ((State.modLine { s.leaveBuffer with serviceId := s.serviceId + 1 } x.line fun c =>
          { c with
            queue := c.queue ++
              [{ id := s.serviceId, station := a.station, write := a.write, par := a.par, val := a.val }] }).answered
        (accepted ln [⟨"ID", natText s.serviceId.toNat⟩]))

/-- R158, R155, R156, R144: a service reply from the station ends the exchange with LINE SERVICE, OK or REFUSED with its VAL; the timeout,
or a frame that is not valid, ends it with NOREPLY and no value. That FRAME_RECEIVED acts here as SERVICE_REPLY_RECEIVED does is the
model's reading (log entry 23). The round ends with it, and where it ends late the settings that wait come into force with the next, a
LINE OVERRUN before the STATION_LOST notices of a new MISS (model's choices, log entries 42 and 53). A frame for an exchange that has
ended before it (its sender says so: model's choice, log entry 35) is discarded. A frame of the next round is sent in the event that
begins its exchange (model's choice, log entry 8). -/
def Obligations.ServiceExchangeEnds : Prop :=
  ∀ (s : State) (l : LineId) (r : ServiceRequest) (x : Station), s.pins.resetLow = false →
    (s.line l).phase = .serviceExchange r → s.stn r.station = some x →
    let ended (c : Instr) (res : ServiceResult) (v : Option Int) : Prop :=
      ∃ t : State, exec c s = .next t.serveTransmitter ∧
        s.roundEnds t l { s.line l with response := none, phase := .betweenRounds }
          (s.notices.line.accept ⟨.service r.id r.station res v, s.timebase⟩) ∧
        LineFrame s t l ∧ t.movers = s.movers ∧
        ∀ i ∈ s.posted, i ≠ .serviceTimeout l → i ≠ .linePeriodExpiry l → i ∈ t.posted
    (∀ (v : Int) (refused : Bool), -2147483648 ≤ v → v ≤ 2147483647 →
      let f : Frame :=
        { octets := makeFrame x.addr 4 (s.line l).round ((if refused then 1 else 0) :: octets32 (BitVec.ofInt 32 v))
          badStop := false }
      ended (.serviceReplyReceived l f) (if refused then .refused else .ok) (some v) ∧
      ended (.frameReceived l f) (if refused then .refused else .ok) (some v)) ∧
    (∀ f : Frame, f.late = false → (framePayload f x.addr 4 (s.line l).round).bind decodeSvcReply = none →
      ended (.serviceReplyReceived l f) .noReply none ∧ ended (.frameReceived l f) .noReply none) ∧
    (∀ f : Frame, f.late = true →
      exec (.serviceReplyReceived l f) s = .next s.serveTransmitter ∧ exec (.frameReceived l f) s = .next s.serveTransmitter) ∧
    ended (.serviceTimeout l) .noReply none

/-- R148, R156, R144: the expiry of the period timer of a POLLING line begins the next round, under the record in force, a new MISS taking
effect at its stations; while the round is under way it marks the round as overdue, and the exchange goes on. The stations that a new
MISS makes LOST are taken in number order, and a frame is sent, its response timer started, in the event that begins its exchange
(model's choices, log entries 42 and 8). -/
def Obligations.PeriodExpiryBeginsTheRound : Prop :=
  ∀ (s : State) (l : LineId) (left : Nat), s.pins.resetLow = false → (s.line l).polling = true →
    (s.line l).period = some left →
    (∀ r, (s.line l).phase = .betweenRounds → (s.line l).record = some r →
      ∃ t : State, exec (.linePeriodExpiry l) s = .next t.serveTransmitter ∧ s.beginsRound t l (s.line l) r ∧
        LineFrame s t l ∧ t.movers = s.movers ∧ s.settingsTake t l (s.line l) r s.notices.line) ∧
    ((s.line l).phase ≠ .betweenRounds →
      exec (.linePeriodExpiry l) s =
        .next (State.serveTransmitter
          (({ s with posted := s.posted.erase (.linePeriodExpiry l) } : State).modLine l fun c =>
            { c with period := none, overdue := true })))

/-- R149 to R152, R5, R144, R148, R156: a valid report of the station ends its exchange, is stored with the timebase value, and makes the
station ONLINE with no miss, with STATION_BACK where it was LOST; a frame that is not valid, and the response timeout, are a miss, which
at the MISS the round began with makes it LOST with STATION_LOST. A source posts its report or its loss. The line goes on under the
settings the round began with; where the round ends late, those that wait come into force with the next, LINE OVERRUN before the
STATION_LOST notices of a new MISS (model's choices, log entries 42 and 53). A frame received while no exchange waits, or for an exchange
that has ended before it (its sender says so: model's choice, log entry 35), is discarded. The next exchange begins within the step, with
the image as it stands then, and its frame is sent there (model's choices, log entries 48 and 8). -/
def Obligations.StationExchangeEnds : Prop :=
  (∀ (s : State) (l : LineId) (f : Frame), s.pins.resetLow = false → f.late = true ∨ (s.line l).phase = .betweenRounds →
    exec (.frameReceived l f) s = .next s.serveTransmitter) ∧
  ∀ (s : State) (l : LineId) (st : StationNo) (x : Station), s.pins.resetLow = false →
    (s.line l).phase = .exchange st → s.stn st = some x →
    (∀ r : Report, r.type = x.type → r.wf →
      ∃ t : State,
        exec (.frameReceived l { octets := makeFrame x.addr 2 (s.line l).round r.payload, badStop := false }) s =
          .next t.serveTransmitter ∧
        s.exchangeEnds t l st { x with report := some ⟨r, s.timebase⟩, misses := 0, health := .online }
          (if x.health = .lost then s.notices.line.accept ⟨.stationBack st x.line x.addr, s.timebase⟩
           else s.notices.line) ∧
        (x.source = true → .reportArrival st ∈ t.posted)) ∧
    ∀ c : Instr,
      c = .responseTimeout l ∨
        (∃ f, c = .frameReceived l f ∧ f.late = false ∧
          (framePayload f x.addr 2 (s.line l).round).bind (decodeReport x.type) = none) →
      let n := min (x.misses + 1) (s.line l).current.miss
      let lost := x.health ≠ .lost ∧ n = (s.line l).current.miss
      ∃ t : State, exec c s = .next t.serveTransmitter ∧
        s.exchangeEnds t l st
          { x with misses := n, health := if x.health = .lost ∨ lost then .lost else .stale }
          (if lost then s.notices.line.accept ⟨.stationLost st x.line x.addr x.owner, s.timebase⟩ else s.notices.line) ∧
        (lost → x.source = true → .sourceLoss st ∈ t.posted)

/-! ## Weather events -/

/-- R128 to R132, R134, R137: a report arrival of a live source forms figure, hold, derate percent and rain state, in that order; a source
loss forms the figure, the hold and the derate percent, and sends NO_SOURCE where it leaves no source live; the release timer's expiry in
RELEASING clears the hold. Each posts to the movers what the hold's change and the rain's edge call for. That the hold's notice goes
before the rain's is the model's reading (log entry 20). WIND is posted and removed in mover number order, and RAIN names the WET sources
in the order of the source list; of two sources lost at one event each loss finds none live (model's choices, log entries 40, 47 and 52).
The figure has the largest MEAN and the largest GUST of the live sources, and is absent where none is live (R128). -/
def Obligations.WeatherEventsMoveTheHold : Prop :=
  ∀ (s : State) (thr : WxThresholds), s.pins.resetLow = false → s.wx.thresholds = some thr →
    let figure := s.windFigure
    let cause : Option WindCause :=
      match figure with
      | none => some .noSource
      | some f => if thr.w2 ≤ f.mean then some .mean else if thr.gh ≤ f.gust then some .gust else none
    let calm := ∃ f, figure = some f ∧ f.mean < thr.w1 ∧ f.gust < thr.gh
    let wets := s.liveSources.filter fun o => match s.lastReport o with | some (.weather _ _ wet) => wet | _ => false
    let armed := allMovers.filter fun m =>
      decide ((s.mv m).state ≠ .unconfigured ∧ (s.trig m).masked = false) && (s.trig m).plan.isSome
    let frame (t : State) : Prop :=
      t.timebase = s.timebase ∧ t.pins = s.pins ∧ t.movers = s.movers ∧ t.pool = s.pool ∧ t.power = s.power ∧
      t.rules = s.rules ∧ t.lineA = s.lineA ∧ t.lineB = s.lineB ∧ t.stations = s.stations ∧ t.serviceId = s.serviceId ∧
      t.link = s.link ∧ t.pending = s.pending ∧ t.notices = { s.notices with weather := t.notices.weather } ∧
      t.wx =
        { s.wx with
          figure := figure, hold := t.wx.hold, releaseTimer := t.wx.releaseTimer
          derate := deratePercent t.wx.hold thr figure, wet := t.wx.wet }
    s.windIs figure ∧ (∀ st, st ∈ s.liveSources ↔ s.live st) ∧
    (∀ st ∈ s.liveSources,
      ∃ t : State, exec (.reportArrival st) s = .next t.serveTransmitter ∧ frame t ∧ t.wx.wet = decide (wets ≠ []) ∧
        let rain := if wets ≠ [] ∧ s.wx.wet = false then armed.map Instr.triggerFiring else []
        let rained (q : ClassQueue) : ClassQueue :=
          if wets ≠ [] ∧ s.wx.wet = false then q.accept ⟨.rain wets, s.timebase⟩
          else if wets = [] ∧ s.wx.wet = true then q.accept ⟨.dry, s.timebase⟩ else q
        (∀ c, s.wx.hold = .clear → cause = some c →
          t.wx.hold = .engaged ∧ t.wx.releaseTimer = s.wx.releaseTimer ∧
          t.notices.weather = rained (s.notices.weather.accept ⟨.windHold c figure, s.timebase⟩) ∧
          t.posted =
            s.posted.erase (.reportArrival st) ++ s.exposedMovers.map (fun m => .holdReasonAddition m .wind) ++ rain) ∧
        (s.wx.hold = .engaged → calm →
          t.wx.hold = .releasing ∧ t.wx.releaseTimer = some (thr.rel * 1000) ∧
          t.notices.weather = rained s.notices.weather ∧ t.posted = s.posted.erase (.reportArrival st) ++ rain) ∧
        ((s.wx.hold = .clear ∧ cause = none) ∨ (s.wx.hold = .engaged ∧ ¬calm) ∨ (s.wx.hold = .releasing ∧ calm) →
          t.wx.hold = s.wx.hold ∧ t.wx.releaseTimer = s.wx.releaseTimer ∧
          t.notices.weather = rained s.notices.weather ∧ t.posted = s.posted.erase (.reportArrival st) ++ rain) ∧
        (s.wx.hold = .releasing → ¬calm →
          t.wx.hold = .engaged ∧ t.wx.releaseTimer = none ∧ t.notices.weather = rained s.notices.weather ∧
          t.posted = (s.posted.erase (.reportArrival st)).erase .releaseTimerExpiry ++ rain)) ∧
    (∀ st ∈ s.wx.sources, st ∉ s.liveSources →
      ∃ t : State, exec (.sourceLoss st) s = .next t.serveTransmitter ∧ frame t ∧ t.wx.wet = s.wx.wet ∧
        let weather :=
          if figure = none then s.notices.weather.accept ⟨.noSource, s.timebase⟩
          else s.notices.weather
        (∀ c, s.wx.hold = .clear → cause = some c →
          t.wx.hold = .engaged ∧ t.wx.releaseTimer = s.wx.releaseTimer ∧
          t.notices.weather = weather.accept ⟨.windHold c figure, s.timebase⟩ ∧
          t.posted = s.posted.erase (.sourceLoss st) ++ s.exposedMovers.map fun m => .holdReasonAddition m .wind) ∧
        ((s.wx.hold = .clear ∧ cause = none) ∨ s.wx.hold = .engaged ∨ (s.wx.hold = .releasing ∧ figure ≠ none) →
          t.wx.hold = s.wx.hold ∧ t.wx.releaseTimer = s.wx.releaseTimer ∧ t.notices.weather = weather ∧
          t.posted = s.posted.erase (.sourceLoss st)) ∧
        (s.wx.hold = .releasing → figure = none →
          t.wx.hold = .engaged ∧ t.wx.releaseTimer = none ∧ t.notices.weather = weather ∧
          t.posted = (s.posted.erase (.sourceLoss st)).erase .releaseTimerExpiry)) ∧
    (s.wx.hold = .releasing →
      exec .releaseTimerExpiry s =
        .next (State.serveTransmitter
          { s with
            wx :=
              { s.wx with
                hold := .clear, releaseTimer := none, derate := deratePercent .clear thr s.wx.figure }
            notices :=
              { s.notices with weather := s.notices.weather.accept ⟨.windClear s.wx.figure, s.timebase⟩ }
            posted :=
              s.posted.erase .releaseTimerExpiry ++ s.exposedMovers.map fun m => .holdReasonRemoval m .wind }))

/-- R137, R138, R42, R133: a firing reaches an armed mover. In IDLE it fails with the first failing test, or flushes the chain, runs the
plan from the top free slot, clamped, and starts it as GO does; in AWAIT_POWER to ENDING it is kept pending; elsewhere it is ignored. -/
def Obligations.TriggerFiringActsByState : Prop :=
  ∀ (s : State) (m : MoverNo) (plan : Motion), s.pins.resetLow = false → (s.mv m).state ≠ .unconfigured →
    (s.trig m).masked = false → (s.trig m).plan = some plan →
    let u : State := { s with posted := s.posted.erase (.triggerFiring m) }
    ((s.mv m).state = .stopping ∨ (s.mv m).state = .stopped ∨ (s.mv m).state = .fault →
      exec (.triggerFiring m) s = .next u.serveTransmitter) ∧
    ((s.mv m).state.estopActs = true →
      exec (.triggerFiring m) s =
        .next (State.serveTransmitter
          { u with
            wx := { s.wx with triggers := s.wx.triggers.set m.val { s.trig m with pendingFlag := true } } })) ∧
    ((s.mv m).state = .idle → ∃ t : State, exec (.triggerFiring m) s = .next t.serveTransmitter ∧ u.launches t m plan)

/-! ## The Mover Sequencers: their verbs -/

/-- R3, R4, R5, R8, R7: DEFMOVER of a mover at rest, over stations that fit, replaces the record: an UNCONFIGURED mover comes to IDLE at
LO, a configured one keeps its state with p clamped into the new travel, and the position is unset. The named stations take the mover as
owner, and one that is no longer named loses it with its image. The mean and the skew of a configured mover go with its trim state
(model's reading, log entry 46). -/
def Obligations.DefmoverConfiguresTheMover : Prop :=
  ∀ (s : State) (ln : CommandLine) (fs : List Field) (m : MoverNo) (r : MoverRec),
    s.executes "DEFMOVER" ln fs → parseDefmover fs = .ok (m, r) → (s.mv m).atRest = true →
    (∀ c u, s.rule c = some u → u.g ≠ m ∧ u.k ≠ m) → r.tracks.Nodup →
    (∀ st ∈ r.tracks, ∃ x, s.stn st = some x ∧ x.type = .drive ∧ (s.line x.line).polling = true ∧
      (x.owner = none ∨ x.owner = some m)) →
    (∀ st ∈ r.tracks, ∀ o ∈ r.tracks, ∀ x y, s.stn st = some x → s.stn o = some y → s.period x.line = s.period y.line) →
    (∀ st, r.lockst = some st → ∃ x, s.stn st = some x ∧ x.type = .lock ∧ (x.owner = none ∨ x.owner = some m)) →
    (s.mv m).chain.length ≤ r.cap →
    ∃ (t : State) (period : Nat),
      exec (.defmover ln) s = .next (t.answered (accepted ln [⟨"M", natText m.val⟩, ⟨"T", natText period⟩])) ∧
      (∀ st ∈ r.tracks, ∀ x c, s.stn st = some x → (s.line x.line).record = some c → period = c.per) ∧
      t.mv m =
        (if (s.mv m).state = .unconfigured then
          { s.mv m with
            record := some r, state := .idle, holdSet := {}, fault := none, p := (r.lo : Int) * 1000, v := 0, dir := none
            residue := 0, positionUnset := true, marks := [], trim := none, skewWarn := false }
         else
          { s.mv m with
            record := some r, p := max ((r.lo : Int) * 1000) (min (s.mv m).p ((r.hi : Int) * 1000)), positionUnset := true
            marks := [], trim := none, skewWarn := false }) ∧
      (∀ w, w ≠ m → t.mv w = s.mv w) ∧
      (∀ st, t.stn st = (s.stn st).map fun x =>
        if st ∈ r.tracks then { x with owner := some m, image := .drive 0 .apply .normal }
        else if r.lockst = some st then { x with owner := some m, image := .lock .keep }
        else if x.owner = some m then
          { x with
            owner := none
            image := match x.type with | .drive => .drive 0 .apply .normal | .lock => .lock .keep | .weather => .weather }
        else x) ∧
      (∀ w, t.trig w = if w = m ∧ (s.mv m).state = .unconfigured then {} else s.trig w) ∧
      t = { s.leaveBuffer with
        movers := t.movers, stations := t.stations, wx := { s.wx with triggers := t.wx.triggers } }

/-- R9, R10, R94 to R96, R133: GO takes the chain head as the executing segment. An EXPOSED mover under a hold that is not CLEAR is HELD
with WIND; any other hands in its power request, which is granted at once or waits: R of its PRATED, the segment's speed and its VRATED,
rounded up, and Rmin of its VCREEP, at most R. -/
def Obligations.GoStartsTheChain : Prop :=
  ∀ (s : State) (ln : CommandLine) (fs : List Field) (m : MoverNo) (g : Segment) (rest : List Segment),
    s.executes "GO" ln fs → parseMover fs = .ok m → (s.mv m).state = .idle → s.pins.stopOpen = false →
    s.link.sup.lost = none → (s.mv m).chain = g :: rest → (∀ st ∈ (s.mv m).cfg.tracks, s.isLost st = false) →
    (s.mv m).positionUnset = false → s.listsSound → s.travelSound →
    ∃ t : State,
      exec (.go ln) s =
        .next (t.answered (accepted ln [⟨"STATE", (t.mv m).state.word.toList⟩, ⟨"EXEC", natText g.tag⟩])) ∧
      let x : Mover := { s.mv m with chain := rest, exec := some ⟨g, g.kind.initialPart⟩ }
      (s.motionRoom → rest.length = (s.mv m).cfg.low →
        ⟨.chainLow m rest.length, s.timebase⟩ ∈ t.notices.motion.queue) ∧
      ((s.mv m).cfg.cls = .sheltered ∨ s.wx.hold = .clear →
        s.leaveBuffer.asksPower t m x (x.request m g.kind) ∧ t.pool = s.pool ∧
        (s.motionRoom → t.isWaiting m = true →
          ⟨.powerWait m (x.request m g.kind).req (x.request m g.kind).min t.freeBudget, s.timebase⟩ ∈
            t.notices.motion.queue)) ∧
      ((s.mv m).cfg.cls = .exposed → s.wx.hold ≠ .clear →
        s.leaveBuffer.settles t m ∧
        t.mv m = Mover.heldFrom { x with holdSet := { (s.mv m).holdSet with wind := true } } ∧
        (s.motionRoom → ⟨.held m { (s.mv m).holdSet with wind := true }, s.timebase⟩ ∈ t.notices.motion.queue))

/-- R13, R14, R15, R17: a hold reason that reaches a mover acts by its state: HELD at once from AWAIT_POWER, HOLDING with the brake order
from UNLOCKING and RELEASING, HOLDING before it from RUNNING, and the set alone in HOLDING and HELD. HOLD adds OPERATOR to the mover it
names, or to every configured mover in number order. The images follow each change of state (R7). -/
def Obligations.HoldReasonsActByState : Prop :=
  (∀ (s : State) (m : MoverNo) (r : HoldReason), s.pins.resetLow = false → r.wf = true →
    ∃ t : State, exec (.holdReasonAddition m r) s = .next t.serveTransmitter ∧
      State.additionActs r m { s with posted := s.posted.erase (.holdReasonAddition m r) } t) ∧
  ∀ (s : State) (ln : CommandLine) (fs : List Field) (who : Option MoverNo), s.executes "HOLD" ln fs →
    parseMoverOrAll fs = .ok who → (∀ m, who = some m → (s.mv m).state ≠ .unconfigured) →
    ∃ t : State, exec (.hold ln) s = .next (t.answered (accepted ln [])) ∧
      (∀ m, who = some m → State.additionActs .operator m s.leaveBuffer t) ∧
      (who = none → s.leaveBuffer.holdsAll t)

/-- R13, R16, R17, R22: a removal that empties the set wakes the mover: a new request from HELD, RELEASING or UNLOCKING from HOLDING with
the brake order given, a RUNNING entry before it, which takes every rule it needs or none (R115). RESUME removes OPERATOR and LINK, and
in STOPPED it brings the mover to IDLE, whose opening tests free its rules and wake the movers held for them (R120, R121).

The entry is refused by a rule that refuses a claim of its G, RELEASED or OPEN with K outside the region, or a release of its K, HELD
(R112 to R114). That puts the mover on the lists of the rules that refuse it, with MOTION CLEARANCE_WAIT for each list it was not on
(R118), in rule number order, and CLEARANCE names those rules alone (model's choice and reading, log entries 39 and 51). A granted entry
asks for the look-ahead's rules, too (R116). A pending trigger launches at the entry to IDLE, after the opening tests (R139; log entry
50). The images follow each change of state (R7). -/
def Obligations.RemovalsWakeByState : Prop :=
  (∀ (s : State) (m : MoverNo) (r : HoldReason), s.pins.resetLow = false →
    ∃ t : State, exec (.holdReasonRemoval m r) s = .next t.serveTransmitter ∧
      State.removalActs [r] m { s with posted := s.posted.erase (.holdReasonRemoval m r) } t) ∧
  ∀ (s : State) (ln : CommandLine) (fs : List Field) (m : MoverNo), s.executes "RESUME" ln fs → parseMover fs = .ok m →
    (s.mv m).state ≠ .unconfigured → (s.mv m).state ≠ .fault → s.link.sup.lost = none →
    ((s.mv m).state = .stopped → s.pins.stopOpen = false) →
    ∃ t : State, exec (.resume ln) s = .next (t.answered (accepted ln [⟨"STATE", (t.mv m).state.word.toList⟩])) ∧
      ((s.mv m).state ≠ .stopped → State.removalActs [.operator, .link] m s.leaveBuffer t) ∧
      ((s.mv m).state = .stopped → s.listsSound →
        s.leaveBuffer.comesToIdle t m (s.mv m) fun i =>
          (s.mv m).exec = none → (∀ c u, s.rule c = some u → ∀ w ∈ u.waiting, (s.mv w).state = .held) →
            s.freesRules i m (s.mv m).p)

/-- R18, R46, R99: STOP by state. At rest and in ENDING it flushes the chain; in AWAIT_POWER and HELD the executing segment is logged CUT,
the chain flushed, and the mover is IDLE, where a pending trigger launches (R139; log entry 50); in UNLOCKING, RELEASING, RUNNING and
HOLDING a STOP is put in progress. The images follow each change of state (R7). LOG= of a LOG_READY is the model's reading (log entry
36). -/
def Obligations.StopActsByState : Prop :=
  ∀ (s : State) (ln : CommandLine) (fs : List Field) (m : MoverNo), s.executes "STOP" ln fs → parseMover fs = .ok m →
    (s.mv m).state ≠ .unconfigured → (s.mv m).state ≠ .stopping → (s.mv m).state ≠ .fault →
    let u := s.leaveBuffer
    let flushed := (s.mv m).chain.map (flushedRecord s.timebase)
    ∃ t : State, exec (.stop ln) s = .next (t.answered (accepted ln [⟨"STATE", (t.mv m).state.word.toList⟩])) ∧
      ((s.mv m).state = .idle ∨ (s.mv m).state = .stopped ∨ (s.mv m).state = .ending →
        u.logsMore t flushed ∧
        t = { u with movers := s.movers.set m.val { s.mv m with chain := [] }, pool := t.pool, notices := t.notices }) ∧
      ((s.mv m).state = .awaitPower ∨ (s.mv m).state = .held → s.listsSound →
        ∀ e, (s.mv m).exec = some e →
          u.comesToIdle t m { s.mv m with exec := none, alignLeft := none, chain := [] } fun i =>
            s.pool.log ++ (s.mv m).logRecord e .cut none s.timebase :: flushed <+: i.pool.log) ∧
      ((s.mv m).state = .unlocking →
        t = { u with
          movers := s.movers.set m.val (Mover.brakingFrom { s.mv m with stopInProgress := true, tlock := none })
          stations := t.stations, posted := (s.posted.erase (.tlockExpiry m)).erase (.tbrkExpiry m) }) ∧
      ((s.mv m).state = .releasing →
        t = { u with
          movers := s.movers.set m.val (Mover.brakingFrom { s.mv m with stopInProgress := true })
          stations := t.stations, posted := s.posted.erase (.tbrkExpiry m) }) ∧
      ((s.mv m).state = .unlocking ∨ (s.mv m).state = .releasing → s.tracksTake t m (.drive 0 .apply .normal)) ∧
      ((s.mv m).state = .running →
        t = { u with
          movers := s.movers.set m.val
            { s.mv m with stopInProgress := true, state := .holding, brakeOrdered := false }
          stations := t.stations, posted := (s.posted.erase (.dwellExpiry m)).erase (.alignTimerExpiry m) }) ∧
      ((s.mv m).state = .holding →
        t = { u with movers := s.movers.set m.val { s.mv m with stopInProgress := true } }) ∧
      ((s.mv m).state = .unlocking ∨ (s.mv m).state = .releasing ∨ (s.mv m).state = .running → u.orders t m) ∧
      MotionFrame u t

/-- R20, R21: ESTOP takes the mover it names, or every configured mover in number order, to STOPPING where its state is one of the seven
from AWAIT_POWER to ENDING, and changes nothing elsewhere: the grant or the request is given back, the executing segment is logged CUT,
v is 0, the chain and p are kept, and the drives are ordered to stop quickly, with BRAKE as last written and the lock kept (R7). After
ESTOP M=ALL no grant is held and no request waits. LOG= of a LOG_READY is the model's reading (log entry 36). -/
def Obligations.EstopStopsTheMover : Prop :=
  ∀ (s : State) (ln : CommandLine) (fs : List Field) (who : Option MoverNo), s.executes "ESTOP" ln fs →
    parseMoverOrAll fs = .ok who → (∀ m, who = some m → (s.mv m).state ≠ .unconfigured) →
    ∃ t : State, exec (.estop ln) s = .next (t.answered (accepted ln [])) ∧
      (∀ m, who = some m → State.stopActs m s.leaveBuffer t) ∧
      (who = none → s.listsSound → s.leaveBuffer.stopActsOnAll t)

/-- R28, R8: ACKFAULT of a mover in FAULT with its stop complete and the cause of its primary kind gone clears the record, sets p from the
last reports of its tracks, and brings it to IDLE with its chain; of a mover not in FAULT it changes nothing. A mean that cannot be
formed shows no overtravel (model's reading, log entry 28). A pending trigger launches at the entry to IDLE, after the opening tests
(R139; log entry 50). -/
def Obligations.AckfaultReturnsToIdle : Prop :=
  ∀ (s : State) (ln : CommandLine) (fs : List Field) (m : MoverNo), s.executes "ACKFAULT" ln fs → parseMover fs = .ok m →
    (s.mv m).state ≠ .unconfigured →
    ((s.mv m).state ≠ .fault → exec (.ackfault ln) s = .next (s.leaveBuffer.answered (accepted ln []))) ∧
    (∀ f : FaultRec, (s.mv m).state = .fault → (s.mv m).fault = some f → f.stopComplete = true →
      (f.primary = .feedback → ∀ st ∈ (s.mv m).cfg.tracks, s.isLost st = false) →
      (f.primary = .drive → ∀ st ∈ (s.mv m).cfg.tracks, ∀ pos d b, s.driveReport st = some (pos, d, b) →
        d ≠ .tripped ∧ d ≠ .disabled) →
      (f.primary = .lock → s.lockReport m ≠ some .jammed) →
      (f.primary = .overtravel → ∀ xs, s.measured m = some xs →
        ((s.mv m).cfg.lo - (s.mv m).cfg.ovt : Int) * 1000 ≤ meanOf xs ∧
        meanOf xs ≤ ((s.mv m).cfg.hi + (s.mv m).cfg.ovt : Int) * 1000) →
      s.listsSound →
      ∃ t : State, exec (.ackfault ln) s = .next (t.answered (accepted ln [])) ∧
        (s.measured m = none →
          s.leaveBuffer.comesToIdle t m { s.mv m with fault := none, v := 0 } fun _ => True) ∧
        (∀ xs, s.measured m = some xs →
          s.leaveBuffer.comesToIdle t m
            { s.mv m with
              fault := none, v := 0, residue := 0, positionUnset := false
              p := max (((s.mv m).cfg.lo : Int) * 1000) (min (meanOf xs) (((s.mv m).cfg.hi : Int) * 1000)) }
            fun _ => True))

/-! ## The Mover Sequencers: their events -/

/-- R25, R27, R91: the expiry of TLOCK in UNLOCKING or ENDING, of TBRK in RELEASING, HOLDING or ENDING, of TSTOP in STOPPING, and of the
alignment timer in RUNNING take the mover to FAULT, with the images of R7, and SAFETY FAULT is sent. In FAULT, TSTOP completes the stop
unconfirmed, and STOP_UNCONFIRMED joins the secondary set unless it is there or is the primary kind. The secondary set is kept in the
order of detection (model's choice, log entry 43). -/
def Obligations.TimerExpiriesFault : Prop :=
  ∀ (s : State) (m : MoverNo), s.pins.resetLow = false →
    let x := s.mv m
    (∀ c k,
      (c = .tlockExpiry m ∧ k = .lock ∧ x.tlock.isSome = true ∧ (x.state = .unlocking ∨ x.state = .ending)) ∨
        (c = .tbrkExpiry m ∧ k = .brake ∧ x.tbrk.isSome = true ∧
          (x.state = .releasing ∨ x.state = .holding ∨ x.state = .ending)) ∨
        (c = .tstopExpiry m ∧ k = .stopTimeout ∧ x.tstop.isSome = true ∧ x.state = .stopping) ∨
        (c = .alignTimerExpiry m ∧ k = .align ∧ x.alignLeft.isSome = true ∧ x.state = .running ∧
          ∃ e, x.exec = some e ∧ e.seg.kind = .align) →
      s.listsSound →
      ∃ t : State, exec c s = .next (t.raise (.fault m k)).serveTransmitter ∧ s.faults t m k []) ∧
    (∀ f : FaultRec, x.state = .fault → x.fault = some f → f.stopComplete = false → x.tstop.isSome = true →
      ∃ t : State, exec (.tstopExpiry m) s = .next t.serveTransmitter ∧
        t.mv m =
          { x with
            tstop := none
            fault := some
              { f with
                secondary :=
                  f.secondary ++
                    if f.primary = .stopUnconfirmed ∨ .stopUnconfirmed ∈ f.secondary then [] else [.stopUnconfirmed]
                stopComplete := true } } ∧
        s.tracksTake t m (.drive 0 .apply .normal) ∧ s.orders t m ∧
        t = { s with
          movers := t.movers, stations := t.stations
          posted := (s.posted.erase (.tstopExpiry m)).erase (.tstopExpiry m) } ∧
        ∀ w, w ≠ m → t.mv w = s.mv w)

/-- R6, R23, R24, R26, R27: at an update the checks FEEDBACK, DRIVE, OVERTRAVEL and LOCK are made against what the stations last reported,
after stage 2, which sets an unset position where every track has reported (R8, R120, R122). The first that fails takes a mover not in
FAULT to it, the others go to the secondary set, and SAFETY FAULT is sent. Of a mover in FAULT, the kinds found that are new join the
secondary set, and it stays in FAULT.

Where none fails, stage 5 supervises a mover in RUNNING, or in HOLDING, before the brake order and after it until the brakes are
confirmed (R81 to R84): the skew at the trip level, or else the follow error above FOL, takes it to FAULT; below them the skew-warning
flag is set, with MOTION SKEW_WARN, or cleared. The record's mean is the latest one formed, at this update where it forms one (model's
reading, log entry 18); the secondary set is kept in the order of R24's table (model's choice, log entry 43). An unset position is set
where nothing waits on a rule that the mover has. -/
def Obligations.FailedChecksFault : Prop :=
  (∀ (s v : State) (m : MoverNo), s.pins.resetLow = false → (s.mv m).trackSetComplete = true → s.placedAtUpdate v m →
    let x := v.mv m
    let kinds := v.failingKinds m
    (.feedback ∈ kinds ↔ (x.state.estopActs = true ∨ x.state = .fault) ∧ ∃ st ∈ x.cfg.tracks, s.isLost st = true) ∧
    (.drive ∈ kinds ↔ ∃ st ∈ x.cfg.tracks, ∃ pos d b, s.driveReport st = some (pos, d, b) ∧
      (d = .tripped ∨ (d = .disabled ∧ x.state ≠ .idle))) ∧
    (.overtravel ∈ kinds ↔ x.positionUnset = false ∧ ∃ mean, x.mean = some mean ∧
      (mean < ((x.cfg.lo : Int) - x.cfg.ovt) * 1000 ∨ ((x.cfg.hi : Int) + x.cfg.ovt) * 1000 < mean)) ∧
    (.lock ∈ kinds ↔ s.lockReport m = some .jammed ∨
      (s.lockReport m = some .engaged ∧ x.unlocked = true ∧
        (x.state = .releasing ∨ x.state = .running ∨ x.state = .holding))) ∧
    kinds.Sublist [.feedback, .drive, .overtravel, .lock] ∧
    (∀ k others, x.state ≠ .fault → kinds = k :: others → s.listsSound →
      ∃ t : State, exec (.trackSetComplete m) s = .next ((t.raise (.fault m k)).writeImages m).serveTransmitter ∧
        v.faults t m k others) ∧
    ∀ f, x.state = .fault → x.fault = some f →
      let noted : FaultRec :=
        { f with secondary := f.secondary ++ kinds.filter fun k => decide (k ≠ f.primary ∧ k ∉ f.secondary) }
      ∃ t : State, exec (.trackSetComplete m) s = .next t.serveTransmitter ∧
        (t.mv m).state = .fault ∧ (t.mv m).fault.map (fun g => { g with stopComplete := false }) =
          some { noted with stopComplete := false } ∧
        v.orders t m ∧
        t = { v with movers := t.movers, stations := t.stations, posted := t.posted } ∧ (∀ w, w ≠ m → t.mv w = v.mv w) ∧
        (f.stopComplete = true →
          t = { v with
            movers := v.movers.set m.val { x with fault := some noted }, stations := t.stations })) ∧
  ∀ (s : State) (m : MoverNo) (e : Executing) (trim : Trim), s.updates m →
    let x := s.moverAtUpdate m
    let aligning := e.seg.kind = .align
    let trips := ((if aligning then x.cfg.skt + x.cfg.skh else x.cfg.skt : Nat) : Int) * 1000 ≤ trim.skew
    let lags := ¬aligning ∧ (x.cfg.fol : Int) * 1000 < |x.p - trim.mean|
    x.state = .running ∨
      (x.state = .holding ∧
        (x.brakeOrdered = false ∨
          ∃ st ∈ x.cfg.tracks, s.isOnline st = false ∨ ∀ pos d b, s.driveReport st = some (pos, d, b) → b ≠ .applied)) →
    x.exec = some e → x.trim = some trim →
    (∀ k others, (trips ∧ k = .skew ∧ others = if lags then [.follow] else []) ∨ (¬trips ∧ lags ∧ k = .follow ∧ others = []) →
      s.listsSound →
      ∃ t : State, exec (.trackSetComplete m) s = .next ((t.raise (.fault m k)).writeImages m).serveTransmitter ∧
        (s.atUpdate m).faults t m k others) ∧
    (¬trips → ¬lags →
      ∃ t : State, exec (.trackSetComplete m) s = .next t.serveTransmitter ∧ (t.mv m).skewWarn = x.warnAfter trim.skew ∧
        (x.skewWarn = false → x.warnAfter trim.skew = true → s.motionRoom →
          ⟨.skewWarn m (trim.skew.tdiv 1000), s.timebase⟩ ∈ t.notices.motion.queue) ∧
        (x.skewWarn = true ∨ x.warnAfter trim.skew = false →
          ∀ d, ⟨.skewWarn m d, s.timebase⟩ ∈ t.notices.motion.queue →
            ⟨.skewWarn m d, s.timebase⟩ ∈ s.notices.motion.queue))

/-- R6, R7, R8, R10, R11, R12, R15, R18, R19, R21, R27, R61, R78, R79, R80, R86, R88, R90, R115, R118, R122, R139: the update of a mover
brings it on where the confirmation it waits for is reported, and else leaves it in its state: the withdrawn lock, the released brakes of
RELEASING, the applied brakes of HOLDING and ENDING, the stopped and braked drives of STOPPING and of the fault stop, the tracks of an
ALIGN brought together. Stage 1 measures the tracks and forms mean, skew, errors and corrections.

The RUNNING entry that follows RELEASING takes the rules of the executing path and asks for the look-ahead's; it fixes the start, path
start and direction of a segment, sets up an ALIGN, and completes a MOVE of no length and an ALIGN, new or resumed, whose tracks agree,
with no profile step in that update (log entries 7, 25, 45). One that a rule refuses (R113, R114) puts the mover in HOLDING with the
brake order, its peak skew raised (log entry 34), and on the lists of the rules that refuse it, with their CLEARANCE_WAIT notices in
rule number order; CLEARANCE names those rules alone (log entries 39, 51). In HOLDING with the brake order, an update that does not
confirm the brakes leaves the lists of rules no longer needed (R116). In IDLE, STOPPED and FAULT with its stop complete an unset p is
set, with the rules that it calls for (R122). The images are those of the state reached (R7). At the entry to IDLE a pending trigger
launches (log entry 50).

A track reported in the current round where its station is ONLINE (log entry 12); the two confirmations of a stop may both succeed at
one update (log entry 33); after an ALIGN the images carry the corrections it stored (log entry 37); the secondary set is kept in the
order of detection (log entry 43): the model's readings and choices. HELD and the setting of p are stated where nothing waits on a rule
that the mover has, completions with a chain behind them where only the mover waits on a rule that names it. -/
def Obligations.ConfirmationsBringTheMoverOn : Prop :=
  ∀ (s : State) (m : MoverNo),
    let x := s.moverAtUpdate m
    let u := s.atUpdate m
    let online (test : DriveState → BrakeReport → Prop) : Prop :=
      ∀ st ∈ x.cfg.tracks, s.isOnline st = true ∧ ∃ pos d b, s.driveReport st = some (pos, d, b) ∧ test d b
    let goesTo (t : State) (y : Mover) : Prop := exec (.trackSetComplete m) s = .next t.serveTransmitter ∧ t.mv m = y
    let calm (trim : Trim) (kind : SegKind) (p : Int) : Prop :=
      x.trim = some trim ∧ x.skewWarn = false ∧ trim.skew < (x.cfg.skw : Int) * 1000 ∧ trim.skew < (x.cfg.skt : Int) * 1000 ∧
      (kind = .align ∨ |p - trim.mean| ≤ (x.cfg.fol : Int) * 1000)
    (∀ xs, s.measures m xs →
      s.measured m = some xs ∧ ∃ trim, x.trim = some trim ∧ (s.mv m).trims (s.mv m).p xs trim) ∧
    ((∃ st ∈ (s.mv m).cfg.tracks, s.driveReport st = none) → s.measured m = none ∧ x.trim = (s.mv m).trim) ∧
    (s.updates m →
      (x.state = .idle ∨ x.state = .stopped ∨ x.state = .awaitPower ∨ x.state = .held) ∨
        (x.state = .unlocking ∧ s.lockReport m ≠ some .withdrawn) ∨
        (x.state = .releasing ∧ ¬online fun _ b => b = .released) →
      ∃ t, goesTo t x ∧ t = { u with stations := t.stations } ∧ u.orders t m) ∧
    (∀ xs, s.pins.resetLow = false → (s.mv m).trackSetComplete = true →
      x.state = .idle ∨ x.state = .stopped ∨ (x.state = .fault ∧ x.fault.any FaultRec.stopComplete = true) →
      x.positionUnset = true → s.measured m = some xs → x.exec = none →
      (∀ c r, s.rule c = some r → r.has m = true → r.waiting = []) →
      let p := max ((x.cfg.lo : Int) * 1000) (min (meanOf xs) ((x.cfg.hi : Int) * 1000))
      let y : Mover := { x with p := p, residue := 0, positionUnset := false }
      (u.setMv m y).failingKinds m = [] →
      ∃ t, goesTo t y ∧ (∀ w, w ≠ m → t.mv w = s.mv w) ∧ u.orders t m ∧
        ∀ c, t.rule c = (s.rule c).map fun r => { r with state := s.stateAtRest m p r }) ∧
    (s.updates m → x.state = .unlocking → s.lockReport m = some .withdrawn →
      ∃ t, goesTo t (Mover.releasingFrom { x with tlock := none }) ∧
        t = { u with movers := t.movers, stations := t.stations, posted := t.posted } ∧ u.orders t m ∧
        ∀ w, w ≠ m → t.mv w = s.mv w) ∧
    (∀ e trim path, s.updates m → x.state = .releasing → online (fun _ b => b = .released) → x.exec = some e →
      calm trim e.seg.kind x.p → x.execPath = some path →
      (∀ c r, s.rule c = some r → ¬s.turnsAway r m path ∧
        (m ∈ r.waiting → r.needs m path = true ∨ r.neededBy m (Mover.lookaheadPath { x with state := .running }) = true)) →
      let begun : Mover := { x with state := .running, tbrk := none, brakeOrdered := false }
      let entered (t : State) (y : Mover) : Prop :=
        let asked := State.asks { u.asks m (some path) with movers := s.movers.set m.val y } m y.lookaheadPath
        t = { u with
          movers := s.movers.set m.val y, stations := t.stations, posted := u.posted.erase (.tbrkExpiry m)
          rules := asked.rules, notices := asked.notices } ∧
        u.orders t m
      let runs (y : Mover) (corrections : List Int) : Prop :=
        ∃ t, goesTo t y ∧ entered t y ∧ (y.v = 0 → u.tracksRun t m 0 corrections)
      -- an ALIGN whose tracks agree completes at once
      let agree (f : Trim) : Prop :=
        e.seg.kind = .align ∧ f.skew ≤ ((x.cfg.skw : Int) - x.cfg.skh) * 1000 ∧ ∀ a ∈ f.errors, |a| ≤ (x.cfg.skh : Int) * 1000
      let enters (y : Mover) (corrections : List Int) : Prop :=
        (∀ f, y.trim = some f → ¬agree f → runs y corrections) ∧
        (∀ f, y.trim = some f → agree f → s.listsSound → s.poolSound → s.wakesNone m →
          ∃ w t, exec (.trackSetComplete m) s = .next t.serveTransmitter ∧ entered w y ∧ w.completes t m .aligned)
      (e.part.startTime.isSome = true →
        enters
          { begun with
            exec := some { e with part := { e.part with stopMark := false, peakSkew := max e.part.peakSkew trim.skew } } }
          trim.corrections) ∧
      (e.part.startTime = none → ∀ (y : Mover) (dir : Option Dir) (start : Int) (corrections : List Int),
        ((∃ n, e.seg.kind = .dwell n) ∧ y = begun ∧ dir = none ∧ start = x.p ∧ corrections = trim.corrections) ∨
          ((∃ dest v a d, e.seg.kind = .move dest v a d ∧
              (x.p < x.targetUsed dest ∧ dir = some .outward ∨ x.targetUsed dest < x.p ∧ dir = some .inward)) ∧
            y = { begun with dir := dir } ∧ start = x.p ∧ corrections = trim.corrections) ∨
          (e.seg.kind = .align ∧ dir = none ∧
            start = max ((x.cfg.lo : Int) * 1000) (min trim.mean ((x.cfg.hi : Int) * 1000)) ∧
            corrections = (x.trimFrom start trim.measured).corrections ∧
            y = { begun with
              p := start, v := 0, residue := 0, alignLeft := some x.cfg.talign
              trim := some (x.trimFrom start trim.measured) } ∧
            trim.skew = maxOf trim.measured - minOf trim.measured) →
        enters
          { y with
            exec := some
              { e with
                part :=
                  { e.part with
                    startTime := some s.timebase, pathStart := some start, dir := dir, stopMark := false
                    peakSkew := max e.part.peakSkew trim.skew } } }
          corrections) ∧
      (∀ dest v a d, e.part.startTime = none → e.seg.kind = .move dest v a d → x.targetUsed dest = x.p → s.listsSound →
        let part : ExecPart :=
          { e.part with startTime := some s.timebase, pathStart := some x.p, dir := none, stopMark := false }
        (x.chain = [] →
          ∃ t, goesTo t (Mover.endingFrom { begun with exec := x.exec } e.seg) ∧ u.settles t m ∧
            s.pool.log ++ [x.logRecord { e with part := part } .arrived none s.timebase] <+: t.pool.log) ∧
        (s.poolSound → s.wakesNone m →
          ∃ w t' t : State, entered w { begun with exec := some { e with part := part } } ∧ w.completes t' m .arrived ∧
            exec (.trackSetComplete m) s = .next t.serveTransmitter ∧
            ((t'.mv m).exec.map (fun q => q.seg.kind) ≠ some .align →
              t = { t' with
                movers := t'.movers.set m.val
                  { t'.mv m with
                    exec := (t'.mv m).exec.map fun q =>
                      { q with part := { q.part with peakSkew := max q.part.peakSkew trim.skew } } } })))) ∧
    (∀ e trim c r path, s.updates m → x.state = .releasing → online (fun _ b => b = .released) → x.exec = some e →
      x.holdSet = {} → calm trim e.seg.kind x.p → s.rule c = some r → x.execPath = some path → s.turnsAway r m path →
      let cs := u.refusers m (some path)
      ∃ t, exec (.trackSetComplete m) s = .next t.serveTransmitter ∧ c ∈ cs ∧
        (∀ o ∈ cs, t.rule o = (s.rule o).map fun y => y.keepsWaiting m) ∧
        (∀ o y, s.rule o = some y → ∃ z, t.rule o = some z ∧ z.state = y.state) ∧
        t.notices = u.noticesWait m cs s.notices ∧ u.orders t m ∧
        t.mv m = Mover.brakingFrom
          { x with
            holdSet := { clearance := cs }
            exec := some
              { e with
                part := { e.part with peakSkew := max e.part.peakSkew trim.skew } } } ∧
        t.power = s.power ∧ t.pool = s.pool ∧ (∀ w, w ≠ m → t.mv w = s.mv w) ∧ u.tracksTake t m (.drive 0 .apply .normal)) ∧
    (s.updates m → x.state = .holding → x.brakeOrdered = true → x.stopInProgress = false →
      online (fun _ b => b = .applied) → s.listsSound → (∀ c r, s.rule c = some r → m ∉ r.waiting) →
      ∃ t, goesTo t (Mover.heldFrom { x with tbrk := none }) ∧ u.settles t m ∧
        (s.motionRoom → ⟨.held m x.holdSet, s.timebase⟩ ∈ t.notices.motion.queue)) ∧
    (s.updates m → x.state = .holding → x.brakeOrdered = true → x.stopInProgress = false →
      online (fun _ b => b = .applied) → s.listsSound → (∀ c r, s.rule c = some r → r.has m = true → r.waiting = []) →
      ∃ t, goesTo t (Mover.heldFrom { x with tbrk := none }) ∧ MotionFrame u t ∧ t.grant m = 0 ∧ t.isWaiting m = false ∧
        u.orders t m ∧ t.pool = s.pool ∧
        t.rules = (State.opens { u with movers := s.movers.set m.val (Mover.heldFrom { x with tbrk := none }) } m).rules ∧
        (s.motionRoom → ⟨.held m x.holdSet, s.timebase⟩ ∈ t.notices.motion.queue)) ∧
    (∀ e, s.updates m → x.state = .holding → x.brakeOrdered = true → x.stopInProgress = true → x.exec = some e →
      online (fun _ b => b = .applied) → s.listsSound →
      ∃ t, exec (.trackSetComplete m) s = .next t.serveTransmitter ∧
        u.comesToIdle t m { x with tbrk := none, exec := none, alignLeft := none, chain := [] } fun i =>
          s.pool.log ++ x.logRecord e .cut none s.timebase :: x.chain.map (flushedRecord s.timebase) <+: i.pool.log) ∧
    (∀ e trim, s.updates m → x.state = .holding → x.brakeOrdered = true → ¬online (fun _ b => b = .applied) →
      x.exec = some e → x.trim = some trim →
      trim.skew < ((if e.seg.kind = .align then x.cfg.skt + x.cfg.skh else x.cfg.skt : Nat) : Int) * 1000 →
      e.seg.kind = .align ∨ |x.p - trim.mean| ≤ (x.cfg.fol : Int) * 1000 →
      let y : Mover :=
        { x with
          skewWarn := x.warnAfter trim.skew
          exec := some { e with part := { e.part with peakSkew := max e.part.peakSkew trim.skew } } }
      let watched : State := { u with movers := s.movers.set m.val y, notices := s.warned m x trim.skew }
      ∃ w t : State, exec (.trackSetComplete m) s = .next t.serveTransmitter ∧ u.orders t m ∧
        State.removalActs [.clearance (watched.stale m)] m (watched.leavesStale m) w ∧ t = { w with stations := t.stations }) ∧
    (∀ brakes lock : Bool, s.updates m → x.state = .ending →
      (brakes = true ↔ x.endBrakeSeen = true ∨ online fun _ b => b = .applied) →
      (lock = true ↔ x.endLockSeen = true ∨ x.endLock = false ∨ s.lockReport m = some .engaged) →
      let y : Mover :=
        { x with
          endBrakeSeen := brakes, endLockSeen := lock, tbrk := if brakes then none else x.tbrk
          tlock := if lock then none else x.tlock }
      (brakes = true → lock = true → s.listsSound →
        ∃ t, exec (.trackSetComplete m) s = .next t.serveTransmitter ∧ u.comesToIdle t m y fun _ => True) ∧
      (brakes = false ∨ lock = false →
        let posted := if brakes then u.posted.erase (.tbrkExpiry m) else u.posted
        ∃ t, goesTo t y ∧
          t = { u with
            movers := s.movers.set m.val y, stations := t.stations
            posted := if lock then posted.erase (.tlockExpiry m) else posted } ∧
          u.orders t m)) ∧
    (∀ xs, s.updates m → x.state = .stopping → x.brakeOrdered = true ∨ online (fun d _ => d = .ready) →
      online (fun _ b => b = .applied) → s.measured m = some xs → s.listsSound →
      ∃ t, goesTo t
          { x with
            state := .stopped, brakeOrdered := false, tstop := none, residue := 0, positionUnset := false
            p := max ((x.cfg.lo : Int) * 1000) (min (meanOf xs) ((x.cfg.hi : Int) * 1000)) } ∧
        u.settles t m) ∧
    (s.updates m → x.state = .stopping →
      let still : Prop := x.brakeOrdered = true ∨ online fun d _ => d = .ready
      let stays (t : State) (y : Mover) : Prop :=
        goesTo t y ∧ t = { u with movers := s.movers.set m.val y, stations := t.stations } ∧ u.orders t m
      (¬still → ∃ t, stays t x) ∧
      (still → ¬online (fun _ b => b = .applied) → ∃ t, stays t { x with brakeOrdered := true })) ∧
    (∀ f, s.pins.resetLow = false → (s.mv m).trackSetComplete = true → x.positionUnset = false → x.state = .fault →
      x.fault = some f → f.stopComplete = false →
      let still : Prop :=
        x.brakeOrdered = true ∨ online fun d _ => d = .ready ∨ d = .tripped ∨ d = .disabled
      let found := (u.failingKinds m).filter fun k => decide (k ≠ f.primary ∧ k ∉ f.secondary)
      let noted : FaultRec := { f with secondary := f.secondary ++ found }
      let stays (t : State) : Prop :=
        t = { u with movers := t.movers, stations := t.stations, posted := t.posted } ∧ u.orders t m ∧
          ∀ w, w ≠ m → t.mv w = s.mv w
      (¬still → ∃ t, goesTo t { x with fault := some noted } ∧ stays t) ∧
      (still → ¬online (fun _ b => b = .applied) →
        ∃ t, goesTo t { x with fault := some noted, brakeOrdered := true } ∧ stays t ∧ u.tracksTake t m (.drive 0 .apply .quick)) ∧
      (still → online (fun _ b => b = .applied) →
        ∃ t, goesTo t { x with fault := some { noted with stopComplete := true }, brakeOrdered := true, tstop := none } ∧
          stays t ∧ u.tracksTake t m (.drive 0 .apply .normal))) ∧
    (∀ e trim, s.updates m → x.state = .running → x.exec = some e → e.seg.kind = .align → e.part.startTime.isSome = true →
      calm trim .align x.p → trim.skew ≤ ((x.cfg.skw : Int) - x.cfg.skh) * 1000 →
      (∀ a ∈ trim.errors, |a| ≤ (x.cfg.skh : Int) * 1000) → s.listsSound →
      let part : ExecPart := { e.part with peakSkew := max e.part.peakSkew trim.skew }
      (x.chain = [] →
        ∃ t, goesTo t (x.endingFrom e.seg) ∧ u.settles t m ∧
          s.pool.log ++ [x.logRecord { e with part := part } .aligned none s.timebase] <+: t.pool.log ∧
          (s.motionRoom → ⟨.chainEnd m e.seg.tag, s.timebase⟩ ∈ t.notices.motion.queue)) ∧
      (s.poolSound → s.wakesNone m →
        ∃ t, exec (.trackSetComplete m) s = .next t.serveTransmitter ∧
          State.completes { u with movers := s.movers.set m.val { x with exec := some { e with part := part } } } t m .aligned ∧
          ∀ g rest, x.chain = g :: rest → (∀ c, s.rule c = none) → g.kind ≠ .align →
            (∀ dest v a d, g.kind = .move dest v a d → x.targetUsed dest ≠ x.p) → x.v = 0 →
            u.tracksRun t m 0 trim.corrections))

/-- R58, R60, R62 to R74, R7, R14 to R16, R19, R43, R84, R87, R103, R112 to R118: the profile step of a mover on a MOVE, with any rules
defined. Stage 6 takes the mover off the lists of rules that its paths need no more, and in RUNNING asks for those that they need, each
granted or refused by itself. Each refusal that stands is a boundary, G's one millimetre before the zone and K's on the region's edge; the
nearest one before the target is the stop point, else the target (the stop points are formed where the profile reads them: model's
reading, log entry 24).

In RUNNING the velocity steps toward the cap, at most the braking velocity; p advances by what the velocity and the residue give, and the
tracks get their setpoints. Where the advance reaches the target, the segment is logged ARRIVED: with an empty chain the mover ends with v
at 0, else it takes the next segment, a look-ahead MOVE farther on, all of whose needs it has, with a velocity above 0, sets an ALIGN up,
holds at once where a DWELL or an ALIGN is refused, and completes at once a MOVE whose target is where it stands (model's readings, log
entries 25, 45 and 51). At a boundary the mover is held with CLEARANCE of all the rules on whose lists it stands, and the brake order.

In HOLDING the velocity falls to 0, never past the limit point, and there the brake order is given. Where stage 6 takes it off a list, the
rule goes from its CLEARANCE list, and where that empties its set, the mover acts as at any removal and may run on in this update. -/
def Obligations.ProfileAdvancesOrArrives : Prop :=
  ∀ (s : State) (m : MoverNo) (e : Executing) (dest : Int) (vCur a d : Nat) (dir : Dir) (xs : List Int), s.updates m →
    let x := s.moverAtUpdate m
    let u := s.atUpdate m
    let r := x.cfg
    let trim := (s.mv m).trimFrom x.p xs
    x.exec = some e → e.seg.kind = .move dest vCur a d → e.part.dir = some dir → x.dir = some dir →
    e.part.startTime.isSome = true → s.measured m = some xs → trim.skew < (r.skt : Int) * 1000 →
    |x.p - trim.mean| ≤ (r.fol : Int) * 1000 →
    let part : ExecPart := { e.part with peakSkew := max e.part.peakSkew trim.skew }
    let watched : State :=
      { u with
        movers := s.movers.set m.val { x with skewWarn := x.warnAfter trim.skew, exec := some { e with part := part } }
        notices := s.warned m x trim.skew }
    (x.state = .running →
      ∃ t : State, exec (.trackSetComplete m) s = .next t.serveTransmitter ∧ u.orders t m ∧
        State.runsTo (watched.stageSix m) t m { e with part := part } dest vCur a d dir trim.corrections) ∧
    (x.state = .holding → x.brakeOrdered = false →
      ∃ w t : State, exec (.trackSetComplete m) s = .next t.serveTransmitter ∧ u.orders t m ∧
        State.removalActs [.clearance (watched.stale m)] m (watched.leavesStale m) w ∧
        ((w.mv m).state = .holding → State.slowsTo w t m dest a d dir trim.corrections) ∧
        ((w.mv m).state = .running →
          State.runsTo w t m { e with part := { part with stopMark := false } } dest vCur a d dir trim.corrections))

/-- R76, R43, R46, R61, R77, R101, R115, R116, R118, R120, R19: at the expiry of its timer a running DWELL is logged DWELLED. With the
chain empty the mover ends; else the head begins at once: the grant is released to its request or topped up from the free budget, its
rules and the look-ahead's are asked for, and the opening tests made. A MOVE whose target is where the mover stands is logged ARRIVED at
once; an ALIGN is set up with its path start at the p set; a refusal for a DWELL or an ALIGN holds the mover with CLEARANCE of the
refusing rules alone (model's readings, log entries 45, 25 and 51). The switch is stated where none but the mover waits on a rule that
names it. -/
def Obligations.DwellExpiryCompletesTheDwell : Prop :=
  ∀ (s : State) (m : MoverNo) (e : Executing) (n : Nat), s.pins.resetLow = false → (s.mv m).state = .running →
    (s.mv m).exec = some e → e.seg.kind = .dwell n → e.part.startTime.isSome = true → s.listsSound →
    let x := s.mv m
    (x.chain = [] →
      ∃ t : State, exec (.dwellExpiry m) s = .next t.serveTransmitter ∧ s.settles t m ∧ t.mv m = x.endingFrom e.seg ∧
        s.pool.log ++ [x.logRecord e .dwelled none s.timebase] <+: t.pool.log ∧
        (s.motionRoom → ⟨.chainEnd m e.seg.tag, s.timebase⟩ ∈ t.notices.motion.queue)) ∧
    (s.poolSound → s.wakesNone m →
      ∃ t : State, exec (.dwellExpiry m) s = .next t.serveTransmitter ∧
        State.completes { s with posted := s.posted.erase (.dwellExpiry m) } t m .dwelled)
end

