-- ==== Sys2Proof/Laws/Figures.lean ====
section
/-! SUPPORT. The figures that the statements spell out are those that the model's operations compute: the request of R94, the flags and
the line of R168, the paths of R112, the refusals of R113 and R114, the limit point of R62; and what the tables after the requests leave
alone. -/

namespace Sys2Proof.Machine

/-- The request that a mover hands in is R94's for its executing segment. -/
theorem State.requestOf_eq_request (s : State) (m : MoverNo) (e : Executing) (h : (s.mv m).exec = some e) :
    s.requestOf m = (s.mv m).request m e.seg.kind := by
  simp only [State.requestOf, h]
  cases hk : e.seg.kind <;> simp only [Mover.request, requestAmount, minimumAmount, ceilDiv, SegKind.requestSpeed]

/-- The flag field of a line is R168's. -/
theorem State.flagField_eq_summaryFlags (s : State) : s.flagField = s.summaryFlags := by
  have hF : (s.flagF = true) = ∃ m, (s.mv m).state = .fault := by simp [State.flagF, allMovers]
  have hM : (s.flagM = true) =
      ∃ m, (s.mv m).state = .unlocking ∨ (s.mv m).state = .releasing ∨ (s.mv m).state = .running ∨ (s.mv m).state = .holding := by
    simp only [State.flagM, allMovers, List.any_eq_true, List.mem_finRange, true_and, eq_iff_iff]
    exact exists_congr fun m => by cases (s.mv m).state <;> simp [MoverState.holdsGrant]
  have hW : (s.flagW = true) = ¬s.wx.hold = .clear := by simp [State.flagW]
  have hE : (s.flagE = true) = (s.pins.stopOpen = true) := by simp [State.flagE]
  have hL : (s.flagL = true) = ¬s.link.sup.lost = none := by
    cases h : s.link.sup.lost <;> simp [State.flagL, h]
  have hN : (s.flagN = true) = ∃ c ∈ [NoticeClass.safety, .motion, .weather, .line], (s.notices.get c).queue ≠ [] := by
    simp [State.flagN, NoticeUnit.get, or_assoc]
  have hG : (s.flagG = true) = (s.notices.logThreshold ≤ s.pool.log.length) := by simp [State.flagG]
  simp only [State.flagField, State.flagLetters, State.summaryFlags, hF, hM, hW, hE, hL, hN, hG, State.flagZ, List.isEmpty_iff,
    ite_not]
  rfl

/-- A line is closed as R168 and the layouts say. -/
theorem State.closeLine_eq_sends (s : State) (parts : List Text) : s.closeLine parts = s.sends parts := by
  unfold State.closeLine State.sends
  rw [State.flagField_eq_summaryFlags]

/-- The path of an executing segment is R112's, with its start where the part has one. -/
theorem Mover.execPath_eq_covers (x : Mover) :
    x.execPath = x.exec.map fun e => x.covers e.seg.kind e.part.pathStart e.part.startTime.isSome := by
  unfold Mover.execPath Mover.covers
  cases x.exec with
  | none => rfl
  | some e =>
    simp only [Option.map_some, Option.some.injEq]
    cases e.seg.kind <;> simp [Path.between, Path.point, Mover.targetUsed, Mover.alignPoint, MoverRec.clampTravel, Mover.mean,
      MoverRec.loUm, MoverRec.hiUm]
    cases x.trim <;> rfl

/-- The refusals of R113 and R114: the rule is needed, not had, and grants nothing. -/
theorem State.turnsAway_iff (s : State) (u : Rule) (m : MoverNo) (path : Path) :
    s.turnsAway u m path ↔ u.needs m path = true ∧ u.has m = false ∧ s.grantedState u m = none := by
  unfold State.turnsAway State.wouldGrant State.grantedState
  refine and_congr_right fun hn => and_congr_right fun hh => ?_
  have hk : u.g ≠ m → u.k = m := fun hg => by
    by_contra hk
    simp [Rule.needs, hg, hk] at hn
  by_cases hg : u.g = m <;> cases hs : u.state <;> simp_all [Rule.has, Rule.inRegion]

/-- The boundary of R117 is the stop point that the table forms. -/
theorem Rule.boundary_eq_stopPoint (u : Rule) (m : MoverNo) (dir : Dir) (p : Int) : u.boundary m dir p = u.stopPoint m dir p := by
  by_cases h : u.g = m <;> cases dir <;> simp [Rule.boundary, Rule.stopPoint, h]

/-- The refused boundaries before the target are the stop points of the table that lie there (R62, R117). -/
theorem State.refusesAt_iff (s : State) (m : MoverNo) (dir : Dir) (target b : Int) :
    s.refusesAt m dir target b ↔
      b ∈ (s.stopPoints m dir).filter fun b => decide (0 ≤ dir.sign * (b - (s.mv m).p)) && decide (0 < dir.sign * (target - b)) := by
  have : (∃ c u, s.rule c = some u ∧ s.pathNeeds m u ∧ u.has m = false ∧ m ∈ u.refused ∧ b = u.boundary m dir (s.mv m).p) ↔
      b ∈ s.stopPoints m dir := by
    simp only [State.stopPoints, List.mem_filterMap, allRules, List.mem_finRange, true_and]
    refine exists_congr fun c => ?_
    cases s.rule c with
    | none => simp
    | some u =>
      simp only [Option.some.injEq, Rule.boundary_eq_stopPoint, State.pathNeeds, State.unneeded]
      constructor
      · rintro ⟨_, rfl, h1, h2, h3, rfl⟩
        rcases h1 with h1 | h1 <;> simp [h1, h2, h3]
      · intro h
        simp only [Bool.not_eq_true', Bool.not_not, Option.ite_none_right_eq_some, Bool.and_eq_true, List.contains_iff_mem,
          Bool.or_eq_true, Option.some.injEq] at h
        exact ⟨u, rfl, h.1.1.2, h.1.2, h.1.1.1, h.2.symm⟩
  simp only [State.refusesAt, this, List.mem_filter, Bool.and_eq_true, decide_eq_true_eq]

/-- A search for the nearest of some boundaries, with one found before or none, ends with one of them that none lies before. -/
theorem nearest_foldl (d : Dir) (p : Int) (bs : List Int) (a : Option Int) :
    let r := bs.foldl
      (fun best b => match best with | none => some b | some c => if d.sign * (b - p) < d.sign * (c - p) then some b else some c) a
    (r = none → a = none ∧ bs = []) ∧
      ∀ x, r = some x → (a = some x ∨ x ∈ bs) ∧ ∀ o, a = some o ∨ o ∈ bs → d.sign * x ≤ d.sign * o := by
  induction bs generalizing a with
  | nil => exact ⟨fun h => ⟨h, rfl⟩, fun x h => ⟨.inl h, fun o ho => by simp_all⟩⟩
  | cons b bs ih =>
    rw [List.foldl_cons]
    cases a with
    | none =>
      obtain ⟨h1, h2⟩ := ih (some b)
      refine ⟨fun h => (nomatch (h1 h).1), fun x h => ?_⟩
      obtain ⟨hx, hn⟩ := h2 x h
      simp only [Option.some.injEq, reduceCtorEq, false_or, List.mem_cons] at hx hn ⊢
      exact ⟨hx.imp_left Eq.symm, fun o ho => hn o (ho.imp_left Eq.symm)⟩
    | some c =>
      simp only [mul_sub, sub_lt_sub_iff_right]
      split
      case' isTrue hlt => obtain ⟨h1, h2⟩ := ih (some b)
      case' isFalse hlt => obtain ⟨h1, h2⟩ := ih (some c)
      all_goals
        simp only [mul_sub, sub_lt_sub_iff_right] at h1 h2
        refine ⟨fun h => (nomatch (h1 h).1), fun x h => ?_⟩
        obtain ⟨hx, hn⟩ := h2 x h
        simp only [Option.some.injEq, List.mem_cons] at hx hn ⊢
        refine ⟨by rcases hx with rfl | hx <;> simp [*], ?_⟩
        rintro o (rfl | rfl | ho)
        · first | exact hn _ (.inl rfl) | exact (hn _ (.inl rfl)).trans hlt.le
        · first | exact hn _ (.inl rfl) | exact (hn _ (.inl rfl)).trans (not_lt.1 hlt)
        · exact hn _ (.inr ho)

/-- The limit point of R62 is the boundary that the profile takes. -/
theorem State.limitIs_nearestBoundary (s : State) (m : MoverNo) (dir : Dir) (target : Int) :
    s.limitIs m dir target (nearestBoundary dir (s.mv m).p target (s.stopPoints m dir)) := by
  have h := nearest_foldl dir (s.mv m).p
    ((s.stopPoints m dir).filter fun b => decide (0 ≤ dir.sign * (b - (s.mv m).p)) && decide (0 < dir.sign * (target - b))) none
  unfold nearestBoundary
  revert h
  generalize List.foldl _ _ _ = r
  intro h
  cases r with
  | none => exact fun b hb => by rw [State.refusesAt_iff, (h.1 rfl).2] at hb; cases hb
  | some x =>
    obtain ⟨hx, hn⟩ := h.2 x rfl
    exact ⟨(State.refusesAt_iff ..).2 (hx.resolve_left nofun), fun o ho => hn o (.inr ((State.refusesAt_iff ..).1 ho))⟩

@[simp] theorem State.asks_movers (s : State) (m : MoverNo) (p : Option Path) : (s.asks m p).movers = s.movers := rfl
@[simp] theorem State.asks_pool (s : State) (m : MoverNo) (p : Option Path) : (s.asks m p).pool = s.pool := rfl
@[simp] theorem State.asks_power (s : State) (m : MoverNo) (p : Option Path) : (s.asks m p).power = s.power := rfl
@[simp] theorem State.asks_stations (s : State) (m : MoverNo) (p : Option Path) : (s.asks m p).stations = s.stations := rfl
@[simp] theorem State.asks_posted (s : State) (m : MoverNo) (p : Option Path) : (s.asks m p).posted = s.posted := rfl
@[simp] theorem State.opens_movers (s : State) (m : MoverNo) : (s.opens m).movers = s.movers := rfl
@[simp] theorem State.opens_notices (s : State) (m : MoverNo) : (s.opens m).notices = s.notices := rfl
@[simp] theorem State.opens_pool (s : State) (m : MoverNo) : (s.opens m).pool = s.pool := rfl
@[simp] theorem State.opens_power (s : State) (m : MoverNo) : (s.opens m).power = s.power := rfl
@[simp] theorem State.leavesStale_movers (s : State) (m : MoverNo) : (s.leavesStale m).movers = s.movers := rfl
@[simp] theorem State.leavesStale_notices (s : State) (m : MoverNo) : (s.leavesStale m).notices = s.notices := rfl
@[simp] theorem State.leavesStale_pool (s : State) (m : MoverNo) : (s.leavesStale m).pool = s.pool := rfl
@[simp] theorem State.leavesStale_power (s : State) (m : MoverNo) : (s.leavesStale m).power = s.power := rfl
@[simp] theorem State.stageSix_movers (s : State) (m : MoverNo) : (s.stageSix m).movers = s.movers := rfl
@[simp] theorem State.stageSix_pool (s : State) (m : MoverNo) : (s.stageSix m).pool = s.pool := rfl
@[simp] theorem State.stageSix_power (s : State) (m : MoverNo) : (s.stageSix m).power = s.power := rfl

end Sys2Proof.Machine
end

