-- ==== Sys2Proof/Laws/State.lean ====
section
/-! SUPPORT. What each update of the state leaves alone, field by field, and what it writes. -/

namespace Sys2Proof.Machine

variable (s : State)

/-! ## setMv -/

@[simp] theorem State.setMv_timebase (m : MoverNo) (x : Mover) : (s.setMv m x).timebase = s.timebase := rfl
@[simp] theorem State.setMv_pins (m : MoverNo) (x : Mover) : (s.setMv m x).pins = s.pins := rfl
@[simp] theorem State.setMv_pool (m : MoverNo) (x : Mover) : (s.setMv m x).pool = s.pool := rfl
@[simp] theorem State.setMv_power (m : MoverNo) (x : Mover) : (s.setMv m x).power = s.power := rfl
@[simp] theorem State.setMv_rules (m : MoverNo) (x : Mover) : (s.setMv m x).rules = s.rules := rfl
@[simp] theorem State.setMv_wx (m : MoverNo) (x : Mover) : (s.setMv m x).wx = s.wx := rfl
@[simp] theorem State.setMv_lineA (m : MoverNo) (x : Mover) : (s.setMv m x).lineA = s.lineA := rfl
@[simp] theorem State.setMv_lineB (m : MoverNo) (x : Mover) : (s.setMv m x).lineB = s.lineB := rfl
@[simp] theorem State.setMv_stations (m : MoverNo) (x : Mover) : (s.setMv m x).stations = s.stations := rfl
@[simp] theorem State.setMv_serviceId (m : MoverNo) (x : Mover) : (s.setMv m x).serviceId = s.serviceId := rfl
@[simp] theorem State.setMv_link (m : MoverNo) (x : Mover) : (s.setMv m x).link = s.link := rfl
@[simp] theorem State.setMv_notices (m : MoverNo) (x : Mover) : (s.setMv m x).notices = s.notices := rfl
@[simp] theorem State.setMv_posted (m : MoverNo) (x : Mover) : (s.setMv m x).posted = s.posted := rfl
@[simp] theorem State.setMv_pending (m : MoverNo) (x : Mover) : (s.setMv m x).pending = s.pending := rfl
@[simp] theorem State.setMv_stn (m : MoverNo) (x : Mover) (st' : StationNo) : (s.setMv m x).stn st' = s.stn st' := rfl
@[simp] theorem State.setMv_rule (m : MoverNo) (x : Mover) (c' : RuleNo) : (s.setMv m x).rule c' = s.rule c' := rfl
@[simp] theorem State.setMv_trig (m : MoverNo) (x : Mover) (m' : MoverNo) : (s.setMv m x).trig m' = s.trig m' := rfl
@[simp] theorem State.setMv_grant (m : MoverNo) (x : Mover) (m' : MoverNo) : (s.setMv m x).grant m' = s.grant m' := rfl
@[simp] theorem State.setMv_line (m : MoverNo) (x : Mover) (l : LineId) : (s.setMv m x).line l = s.line l := by cases l <;> rfl

/-! ## modMv -/

@[simp] theorem State.modMv_timebase (m : MoverNo) (f : Mover → Mover) : (s.modMv m f).timebase = s.timebase := rfl
@[simp] theorem State.modMv_pins (m : MoverNo) (f : Mover → Mover) : (s.modMv m f).pins = s.pins := rfl
@[simp] theorem State.modMv_pool (m : MoverNo) (f : Mover → Mover) : (s.modMv m f).pool = s.pool := rfl
@[simp] theorem State.modMv_power (m : MoverNo) (f : Mover → Mover) : (s.modMv m f).power = s.power := rfl
@[simp] theorem State.modMv_rules (m : MoverNo) (f : Mover → Mover) : (s.modMv m f).rules = s.rules := rfl
@[simp] theorem State.modMv_wx (m : MoverNo) (f : Mover → Mover) : (s.modMv m f).wx = s.wx := rfl
@[simp] theorem State.modMv_lineA (m : MoverNo) (f : Mover → Mover) : (s.modMv m f).lineA = s.lineA := rfl
@[simp] theorem State.modMv_lineB (m : MoverNo) (f : Mover → Mover) : (s.modMv m f).lineB = s.lineB := rfl
@[simp] theorem State.modMv_stations (m : MoverNo) (f : Mover → Mover) : (s.modMv m f).stations = s.stations := rfl
@[simp] theorem State.modMv_serviceId (m : MoverNo) (f : Mover → Mover) : (s.modMv m f).serviceId = s.serviceId := rfl
@[simp] theorem State.modMv_link (m : MoverNo) (f : Mover → Mover) : (s.modMv m f).link = s.link := rfl
@[simp] theorem State.modMv_notices (m : MoverNo) (f : Mover → Mover) : (s.modMv m f).notices = s.notices := rfl
@[simp] theorem State.modMv_posted (m : MoverNo) (f : Mover → Mover) : (s.modMv m f).posted = s.posted := rfl
@[simp] theorem State.modMv_pending (m : MoverNo) (f : Mover → Mover) : (s.modMv m f).pending = s.pending := rfl
@[simp] theorem State.modMv_stn (m : MoverNo) (f : Mover → Mover) (st' : StationNo) : (s.modMv m f).stn st' = s.stn st' := rfl
@[simp] theorem State.modMv_rule (m : MoverNo) (f : Mover → Mover) (c' : RuleNo) : (s.modMv m f).rule c' = s.rule c' := rfl
@[simp] theorem State.modMv_trig (m : MoverNo) (f : Mover → Mover) (m' : MoverNo) : (s.modMv m f).trig m' = s.trig m' := rfl
@[simp] theorem State.modMv_grant (m : MoverNo) (f : Mover → Mover) (m' : MoverNo) : (s.modMv m f).grant m' = s.grant m' := rfl
@[simp] theorem State.modMv_line (m : MoverNo) (f : Mover → Mover) (l : LineId) : (s.modMv m f).line l = s.line l := by cases l <;> rfl

/-! ## setStn -/

@[simp] theorem State.setStn_timebase (st : StationNo) (x : Option Station) : (s.setStn st x).timebase = s.timebase := rfl
@[simp] theorem State.setStn_pins (st : StationNo) (x : Option Station) : (s.setStn st x).pins = s.pins := rfl
@[simp] theorem State.setStn_movers (st : StationNo) (x : Option Station) : (s.setStn st x).movers = s.movers := rfl
@[simp] theorem State.setStn_pool (st : StationNo) (x : Option Station) : (s.setStn st x).pool = s.pool := rfl
@[simp] theorem State.setStn_power (st : StationNo) (x : Option Station) : (s.setStn st x).power = s.power := rfl
@[simp] theorem State.setStn_rules (st : StationNo) (x : Option Station) : (s.setStn st x).rules = s.rules := rfl
@[simp] theorem State.setStn_wx (st : StationNo) (x : Option Station) : (s.setStn st x).wx = s.wx := rfl
@[simp] theorem State.setStn_lineA (st : StationNo) (x : Option Station) : (s.setStn st x).lineA = s.lineA := rfl
@[simp] theorem State.setStn_lineB (st : StationNo) (x : Option Station) : (s.setStn st x).lineB = s.lineB := rfl
@[simp] theorem State.setStn_serviceId (st : StationNo) (x : Option Station) : (s.setStn st x).serviceId = s.serviceId := rfl
@[simp] theorem State.setStn_link (st : StationNo) (x : Option Station) : (s.setStn st x).link = s.link := rfl
@[simp] theorem State.setStn_notices (st : StationNo) (x : Option Station) : (s.setStn st x).notices = s.notices := rfl
@[simp] theorem State.setStn_posted (st : StationNo) (x : Option Station) : (s.setStn st x).posted = s.posted := rfl
@[simp] theorem State.setStn_pending (st : StationNo) (x : Option Station) : (s.setStn st x).pending = s.pending := rfl
@[simp] theorem State.setStn_mv (st : StationNo) (x : Option Station) (m' : MoverNo) : (s.setStn st x).mv m' = s.mv m' := rfl
@[simp] theorem State.setStn_rule (st : StationNo) (x : Option Station) (c' : RuleNo) : (s.setStn st x).rule c' = s.rule c' := rfl
@[simp] theorem State.setStn_trig (st : StationNo) (x : Option Station) (m' : MoverNo) : (s.setStn st x).trig m' = s.trig m' := rfl
@[simp] theorem State.setStn_grant (st : StationNo) (x : Option Station) (m' : MoverNo) : (s.setStn st x).grant m' = s.grant m' := rfl
@[simp] theorem State.setStn_line (st : StationNo) (x : Option Station) (l : LineId) : (s.setStn st x).line l = s.line l := by cases l <;> rfl

/-! ## modStn -/

@[simp] theorem State.modStn_timebase (st : StationNo) (f : Station → Station) : (s.modStn st f).timebase = s.timebase := rfl
@[simp] theorem State.modStn_pins (st : StationNo) (f : Station → Station) : (s.modStn st f).pins = s.pins := rfl
@[simp] theorem State.modStn_movers (st : StationNo) (f : Station → Station) : (s.modStn st f).movers = s.movers := rfl
@[simp] theorem State.modStn_pool (st : StationNo) (f : Station → Station) : (s.modStn st f).pool = s.pool := rfl
@[simp] theorem State.modStn_power (st : StationNo) (f : Station → Station) : (s.modStn st f).power = s.power := rfl
@[simp] theorem State.modStn_rules (st : StationNo) (f : Station → Station) : (s.modStn st f).rules = s.rules := rfl
@[simp] theorem State.modStn_wx (st : StationNo) (f : Station → Station) : (s.modStn st f).wx = s.wx := rfl
@[simp] theorem State.modStn_lineA (st : StationNo) (f : Station → Station) : (s.modStn st f).lineA = s.lineA := rfl
@[simp] theorem State.modStn_lineB (st : StationNo) (f : Station → Station) : (s.modStn st f).lineB = s.lineB := rfl
@[simp] theorem State.modStn_serviceId (st : StationNo) (f : Station → Station) : (s.modStn st f).serviceId = s.serviceId := rfl
@[simp] theorem State.modStn_link (st : StationNo) (f : Station → Station) : (s.modStn st f).link = s.link := rfl
@[simp] theorem State.modStn_notices (st : StationNo) (f : Station → Station) : (s.modStn st f).notices = s.notices := rfl
@[simp] theorem State.modStn_posted (st : StationNo) (f : Station → Station) : (s.modStn st f).posted = s.posted := rfl
@[simp] theorem State.modStn_pending (st : StationNo) (f : Station → Station) : (s.modStn st f).pending = s.pending := rfl
@[simp] theorem State.modStn_mv (st : StationNo) (f : Station → Station) (m' : MoverNo) : (s.modStn st f).mv m' = s.mv m' := rfl
@[simp] theorem State.modStn_rule (st : StationNo) (f : Station → Station) (c' : RuleNo) : (s.modStn st f).rule c' = s.rule c' := rfl
@[simp] theorem State.modStn_trig (st : StationNo) (f : Station → Station) (m' : MoverNo) : (s.modStn st f).trig m' = s.trig m' := rfl
@[simp] theorem State.modStn_grant (st : StationNo) (f : Station → Station) (m' : MoverNo) : (s.modStn st f).grant m' = s.grant m' := rfl
@[simp] theorem State.modStn_line (st : StationNo) (f : Station → Station) (l : LineId) : (s.modStn st f).line l = s.line l := by cases l <;> rfl

/-! ## setRule -/

@[simp] theorem State.setRule_timebase (c : RuleNo) (x : Option Rule) : (s.setRule c x).timebase = s.timebase := rfl
@[simp] theorem State.setRule_pins (c : RuleNo) (x : Option Rule) : (s.setRule c x).pins = s.pins := rfl
@[simp] theorem State.setRule_movers (c : RuleNo) (x : Option Rule) : (s.setRule c x).movers = s.movers := rfl
@[simp] theorem State.setRule_pool (c : RuleNo) (x : Option Rule) : (s.setRule c x).pool = s.pool := rfl
@[simp] theorem State.setRule_power (c : RuleNo) (x : Option Rule) : (s.setRule c x).power = s.power := rfl
@[simp] theorem State.setRule_wx (c : RuleNo) (x : Option Rule) : (s.setRule c x).wx = s.wx := rfl
@[simp] theorem State.setRule_lineA (c : RuleNo) (x : Option Rule) : (s.setRule c x).lineA = s.lineA := rfl
@[simp] theorem State.setRule_lineB (c : RuleNo) (x : Option Rule) : (s.setRule c x).lineB = s.lineB := rfl
@[simp] theorem State.setRule_stations (c : RuleNo) (x : Option Rule) : (s.setRule c x).stations = s.stations := rfl
@[simp] theorem State.setRule_serviceId (c : RuleNo) (x : Option Rule) : (s.setRule c x).serviceId = s.serviceId := rfl
@[simp] theorem State.setRule_link (c : RuleNo) (x : Option Rule) : (s.setRule c x).link = s.link := rfl
@[simp] theorem State.setRule_notices (c : RuleNo) (x : Option Rule) : (s.setRule c x).notices = s.notices := rfl
@[simp] theorem State.setRule_posted (c : RuleNo) (x : Option Rule) : (s.setRule c x).posted = s.posted := rfl
@[simp] theorem State.setRule_pending (c : RuleNo) (x : Option Rule) : (s.setRule c x).pending = s.pending := rfl
@[simp] theorem State.setRule_mv (c : RuleNo) (x : Option Rule) (m' : MoverNo) : (s.setRule c x).mv m' = s.mv m' := rfl
@[simp] theorem State.setRule_stn (c : RuleNo) (x : Option Rule) (st' : StationNo) : (s.setRule c x).stn st' = s.stn st' := rfl
@[simp] theorem State.setRule_trig (c : RuleNo) (x : Option Rule) (m' : MoverNo) : (s.setRule c x).trig m' = s.trig m' := rfl
@[simp] theorem State.setRule_grant (c : RuleNo) (x : Option Rule) (m' : MoverNo) : (s.setRule c x).grant m' = s.grant m' := rfl
@[simp] theorem State.setRule_line (c : RuleNo) (x : Option Rule) (l : LineId) : (s.setRule c x).line l = s.line l := by cases l <;> rfl

/-! ## modRule -/

@[simp] theorem State.modRule_timebase (c : RuleNo) (f : Rule → Rule) : (s.modRule c f).timebase = s.timebase := rfl
@[simp] theorem State.modRule_pins (c : RuleNo) (f : Rule → Rule) : (s.modRule c f).pins = s.pins := rfl
@[simp] theorem State.modRule_movers (c : RuleNo) (f : Rule → Rule) : (s.modRule c f).movers = s.movers := rfl
@[simp] theorem State.modRule_pool (c : RuleNo) (f : Rule → Rule) : (s.modRule c f).pool = s.pool := rfl
@[simp] theorem State.modRule_power (c : RuleNo) (f : Rule → Rule) : (s.modRule c f).power = s.power := rfl
@[simp] theorem State.modRule_wx (c : RuleNo) (f : Rule → Rule) : (s.modRule c f).wx = s.wx := rfl
@[simp] theorem State.modRule_lineA (c : RuleNo) (f : Rule → Rule) : (s.modRule c f).lineA = s.lineA := rfl
@[simp] theorem State.modRule_lineB (c : RuleNo) (f : Rule → Rule) : (s.modRule c f).lineB = s.lineB := rfl
@[simp] theorem State.modRule_stations (c : RuleNo) (f : Rule → Rule) : (s.modRule c f).stations = s.stations := rfl
@[simp] theorem State.modRule_serviceId (c : RuleNo) (f : Rule → Rule) : (s.modRule c f).serviceId = s.serviceId := rfl
@[simp] theorem State.modRule_link (c : RuleNo) (f : Rule → Rule) : (s.modRule c f).link = s.link := rfl
@[simp] theorem State.modRule_notices (c : RuleNo) (f : Rule → Rule) : (s.modRule c f).notices = s.notices := rfl
@[simp] theorem State.modRule_posted (c : RuleNo) (f : Rule → Rule) : (s.modRule c f).posted = s.posted := rfl
@[simp] theorem State.modRule_pending (c : RuleNo) (f : Rule → Rule) : (s.modRule c f).pending = s.pending := rfl
@[simp] theorem State.modRule_mv (c : RuleNo) (f : Rule → Rule) (m' : MoverNo) : (s.modRule c f).mv m' = s.mv m' := rfl
@[simp] theorem State.modRule_stn (c : RuleNo) (f : Rule → Rule) (st' : StationNo) : (s.modRule c f).stn st' = s.stn st' := rfl
@[simp] theorem State.modRule_trig (c : RuleNo) (f : Rule → Rule) (m' : MoverNo) : (s.modRule c f).trig m' = s.trig m' := rfl
@[simp] theorem State.modRule_grant (c : RuleNo) (f : Rule → Rule) (m' : MoverNo) : (s.modRule c f).grant m' = s.grant m' := rfl
@[simp] theorem State.modRule_line (c : RuleNo) (f : Rule → Rule) (l : LineId) : (s.modRule c f).line l = s.line l := by cases l <;> rfl

/-! ## setGrant -/

@[simp] theorem State.setGrant_timebase (m : MoverNo) (g : Nat) : (s.setGrant m g).timebase = s.timebase := rfl
@[simp] theorem State.setGrant_pins (m : MoverNo) (g : Nat) : (s.setGrant m g).pins = s.pins := rfl
@[simp] theorem State.setGrant_movers (m : MoverNo) (g : Nat) : (s.setGrant m g).movers = s.movers := rfl
@[simp] theorem State.setGrant_pool (m : MoverNo) (g : Nat) : (s.setGrant m g).pool = s.pool := rfl
@[simp] theorem State.setGrant_rules (m : MoverNo) (g : Nat) : (s.setGrant m g).rules = s.rules := rfl
@[simp] theorem State.setGrant_wx (m : MoverNo) (g : Nat) : (s.setGrant m g).wx = s.wx := rfl
@[simp] theorem State.setGrant_lineA (m : MoverNo) (g : Nat) : (s.setGrant m g).lineA = s.lineA := rfl
@[simp] theorem State.setGrant_lineB (m : MoverNo) (g : Nat) : (s.setGrant m g).lineB = s.lineB := rfl
@[simp] theorem State.setGrant_stations (m : MoverNo) (g : Nat) : (s.setGrant m g).stations = s.stations := rfl
@[simp] theorem State.setGrant_serviceId (m : MoverNo) (g : Nat) : (s.setGrant m g).serviceId = s.serviceId := rfl
@[simp] theorem State.setGrant_link (m : MoverNo) (g : Nat) : (s.setGrant m g).link = s.link := rfl
@[simp] theorem State.setGrant_notices (m : MoverNo) (g : Nat) : (s.setGrant m g).notices = s.notices := rfl
@[simp] theorem State.setGrant_posted (m : MoverNo) (g : Nat) : (s.setGrant m g).posted = s.posted := rfl
@[simp] theorem State.setGrant_pending (m : MoverNo) (g : Nat) : (s.setGrant m g).pending = s.pending := rfl
@[simp] theorem State.setGrant_mv (m : MoverNo) (g : Nat) (m' : MoverNo) : (s.setGrant m g).mv m' = s.mv m' := rfl
@[simp] theorem State.setGrant_stn (m : MoverNo) (g : Nat) (st' : StationNo) : (s.setGrant m g).stn st' = s.stn st' := rfl
@[simp] theorem State.setGrant_rule (m : MoverNo) (g : Nat) (c' : RuleNo) : (s.setGrant m g).rule c' = s.rule c' := rfl
@[simp] theorem State.setGrant_trig (m : MoverNo) (g : Nat) (m' : MoverNo) : (s.setGrant m g).trig m' = s.trig m' := rfl
@[simp] theorem State.setGrant_line (m : MoverNo) (g : Nat) (l : LineId) : (s.setGrant m g).line l = s.line l := by cases l <;> rfl

/-! ## modTrig -/

@[simp] theorem State.modTrig_timebase (m : MoverNo) (f : Trigger → Trigger) : (s.modTrig m f).timebase = s.timebase := rfl
@[simp] theorem State.modTrig_pins (m : MoverNo) (f : Trigger → Trigger) : (s.modTrig m f).pins = s.pins := rfl
@[simp] theorem State.modTrig_movers (m : MoverNo) (f : Trigger → Trigger) : (s.modTrig m f).movers = s.movers := rfl
@[simp] theorem State.modTrig_pool (m : MoverNo) (f : Trigger → Trigger) : (s.modTrig m f).pool = s.pool := rfl
@[simp] theorem State.modTrig_power (m : MoverNo) (f : Trigger → Trigger) : (s.modTrig m f).power = s.power := rfl
@[simp] theorem State.modTrig_rules (m : MoverNo) (f : Trigger → Trigger) : (s.modTrig m f).rules = s.rules := rfl
@[simp] theorem State.modTrig_lineA (m : MoverNo) (f : Trigger → Trigger) : (s.modTrig m f).lineA = s.lineA := rfl
@[simp] theorem State.modTrig_lineB (m : MoverNo) (f : Trigger → Trigger) : (s.modTrig m f).lineB = s.lineB := rfl
@[simp] theorem State.modTrig_stations (m : MoverNo) (f : Trigger → Trigger) : (s.modTrig m f).stations = s.stations := rfl
@[simp] theorem State.modTrig_serviceId (m : MoverNo) (f : Trigger → Trigger) : (s.modTrig m f).serviceId = s.serviceId := rfl
@[simp] theorem State.modTrig_link (m : MoverNo) (f : Trigger → Trigger) : (s.modTrig m f).link = s.link := rfl
@[simp] theorem State.modTrig_notices (m : MoverNo) (f : Trigger → Trigger) : (s.modTrig m f).notices = s.notices := rfl
@[simp] theorem State.modTrig_posted (m : MoverNo) (f : Trigger → Trigger) : (s.modTrig m f).posted = s.posted := rfl
@[simp] theorem State.modTrig_pending (m : MoverNo) (f : Trigger → Trigger) : (s.modTrig m f).pending = s.pending := rfl
@[simp] theorem State.modTrig_mv (m : MoverNo) (f : Trigger → Trigger) (m' : MoverNo) : (s.modTrig m f).mv m' = s.mv m' := rfl
@[simp] theorem State.modTrig_stn (m : MoverNo) (f : Trigger → Trigger) (st' : StationNo) : (s.modTrig m f).stn st' = s.stn st' := rfl
@[simp] theorem State.modTrig_rule (m : MoverNo) (f : Trigger → Trigger) (c' : RuleNo) : (s.modTrig m f).rule c' = s.rule c' := rfl
@[simp] theorem State.modTrig_grant (m : MoverNo) (f : Trigger → Trigger) (m' : MoverNo) : (s.modTrig m f).grant m' = s.grant m' := rfl
@[simp] theorem State.modTrig_line (m : MoverNo) (f : Trigger → Trigger) (l : LineId) : (s.modTrig m f).line l = s.line l := by cases l <;> rfl

/-! ## raise -/

@[simp] theorem State.raise_timebase (k : NoticeKind) : (s.raise k).timebase = s.timebase := rfl
@[simp] theorem State.raise_pins (k : NoticeKind) : (s.raise k).pins = s.pins := rfl
@[simp] theorem State.raise_movers (k : NoticeKind) : (s.raise k).movers = s.movers := rfl
@[simp] theorem State.raise_pool (k : NoticeKind) : (s.raise k).pool = s.pool := rfl
@[simp] theorem State.raise_power (k : NoticeKind) : (s.raise k).power = s.power := rfl
@[simp] theorem State.raise_rules (k : NoticeKind) : (s.raise k).rules = s.rules := rfl
@[simp] theorem State.raise_wx (k : NoticeKind) : (s.raise k).wx = s.wx := rfl
@[simp] theorem State.raise_lineA (k : NoticeKind) : (s.raise k).lineA = s.lineA := rfl
@[simp] theorem State.raise_lineB (k : NoticeKind) : (s.raise k).lineB = s.lineB := rfl
@[simp] theorem State.raise_stations (k : NoticeKind) : (s.raise k).stations = s.stations := rfl
@[simp] theorem State.raise_serviceId (k : NoticeKind) : (s.raise k).serviceId = s.serviceId := rfl
@[simp] theorem State.raise_link (k : NoticeKind) : (s.raise k).link = s.link := rfl
@[simp] theorem State.raise_posted (k : NoticeKind) : (s.raise k).posted = s.posted := rfl
@[simp] theorem State.raise_pending (k : NoticeKind) : (s.raise k).pending = s.pending := rfl
@[simp] theorem State.raise_mv (k : NoticeKind) (m' : MoverNo) : (s.raise k).mv m' = s.mv m' := rfl
@[simp] theorem State.raise_stn (k : NoticeKind) (st' : StationNo) : (s.raise k).stn st' = s.stn st' := rfl
@[simp] theorem State.raise_rule (k : NoticeKind) (c' : RuleNo) : (s.raise k).rule c' = s.rule c' := rfl
@[simp] theorem State.raise_trig (k : NoticeKind) (m' : MoverNo) : (s.raise k).trig m' = s.trig m' := rfl
@[simp] theorem State.raise_grant (k : NoticeKind) (m' : MoverNo) : (s.raise k).grant m' = s.grant m' := rfl
@[simp] theorem State.raise_line (k : NoticeKind) (l : LineId) : (s.raise k).line l = s.line l := by cases l <;> rfl

/-! ## post -/

@[simp] theorem State.post_timebase (i : Instr) : (s.post i).timebase = s.timebase := rfl
@[simp] theorem State.post_pins (i : Instr) : (s.post i).pins = s.pins := rfl
@[simp] theorem State.post_movers (i : Instr) : (s.post i).movers = s.movers := rfl
@[simp] theorem State.post_pool (i : Instr) : (s.post i).pool = s.pool := rfl
@[simp] theorem State.post_power (i : Instr) : (s.post i).power = s.power := rfl
@[simp] theorem State.post_rules (i : Instr) : (s.post i).rules = s.rules := rfl
@[simp] theorem State.post_wx (i : Instr) : (s.post i).wx = s.wx := rfl
@[simp] theorem State.post_lineA (i : Instr) : (s.post i).lineA = s.lineA := rfl
@[simp] theorem State.post_lineB (i : Instr) : (s.post i).lineB = s.lineB := rfl
@[simp] theorem State.post_stations (i : Instr) : (s.post i).stations = s.stations := rfl
@[simp] theorem State.post_serviceId (i : Instr) : (s.post i).serviceId = s.serviceId := rfl
@[simp] theorem State.post_link (i : Instr) : (s.post i).link = s.link := rfl
@[simp] theorem State.post_notices (i : Instr) : (s.post i).notices = s.notices := rfl
@[simp] theorem State.post_pending (i : Instr) : (s.post i).pending = s.pending := rfl
@[simp] theorem State.post_mv (i : Instr) (m' : MoverNo) : (s.post i).mv m' = s.mv m' := rfl
@[simp] theorem State.post_stn (i : Instr) (st' : StationNo) : (s.post i).stn st' = s.stn st' := rfl
@[simp] theorem State.post_rule (i : Instr) (c' : RuleNo) : (s.post i).rule c' = s.rule c' := rfl
@[simp] theorem State.post_trig (i : Instr) (m' : MoverNo) : (s.post i).trig m' = s.trig m' := rfl
@[simp] theorem State.post_grant (i : Instr) (m' : MoverNo) : (s.post i).grant m' = s.grant m' := rfl
@[simp] theorem State.post_line (i : Instr) (l : LineId) : (s.post i).line l = s.line l := by cases l <;> rfl

/-! ## unpost -/

@[simp] theorem State.unpost_timebase (i : Instr) : (s.unpost i).timebase = s.timebase := rfl
@[simp] theorem State.unpost_pins (i : Instr) : (s.unpost i).pins = s.pins := rfl
@[simp] theorem State.unpost_movers (i : Instr) : (s.unpost i).movers = s.movers := rfl
@[simp] theorem State.unpost_pool (i : Instr) : (s.unpost i).pool = s.pool := rfl
@[simp] theorem State.unpost_power (i : Instr) : (s.unpost i).power = s.power := rfl
@[simp] theorem State.unpost_rules (i : Instr) : (s.unpost i).rules = s.rules := rfl
@[simp] theorem State.unpost_wx (i : Instr) : (s.unpost i).wx = s.wx := rfl
@[simp] theorem State.unpost_lineA (i : Instr) : (s.unpost i).lineA = s.lineA := rfl
@[simp] theorem State.unpost_lineB (i : Instr) : (s.unpost i).lineB = s.lineB := rfl
@[simp] theorem State.unpost_stations (i : Instr) : (s.unpost i).stations = s.stations := rfl
@[simp] theorem State.unpost_serviceId (i : Instr) : (s.unpost i).serviceId = s.serviceId := rfl
@[simp] theorem State.unpost_link (i : Instr) : (s.unpost i).link = s.link := rfl
@[simp] theorem State.unpost_notices (i : Instr) : (s.unpost i).notices = s.notices := rfl
@[simp] theorem State.unpost_pending (i : Instr) : (s.unpost i).pending = s.pending := rfl
@[simp] theorem State.unpost_mv (i : Instr) (m' : MoverNo) : (s.unpost i).mv m' = s.mv m' := rfl
@[simp] theorem State.unpost_stn (i : Instr) (st' : StationNo) : (s.unpost i).stn st' = s.stn st' := rfl
@[simp] theorem State.unpost_rule (i : Instr) (c' : RuleNo) : (s.unpost i).rule c' = s.rule c' := rfl
@[simp] theorem State.unpost_trig (i : Instr) (m' : MoverNo) : (s.unpost i).trig m' = s.trig m' := rfl
@[simp] theorem State.unpost_grant (i : Instr) (m' : MoverNo) : (s.unpost i).grant m' = s.grant m' := rfl
@[simp] theorem State.unpost_line (i : Instr) (l : LineId) : (s.unpost i).line l = s.line l := by cases l <;> rfl

/-! ## reply -/

@[simp] theorem State.reply_timebase (r : Reply) : (s.reply r).timebase = s.timebase := rfl
@[simp] theorem State.reply_pins (r : Reply) : (s.reply r).pins = s.pins := rfl
@[simp] theorem State.reply_movers (r : Reply) : (s.reply r).movers = s.movers := rfl
@[simp] theorem State.reply_pool (r : Reply) : (s.reply r).pool = s.pool := rfl
@[simp] theorem State.reply_power (r : Reply) : (s.reply r).power = s.power := rfl
@[simp] theorem State.reply_rules (r : Reply) : (s.reply r).rules = s.rules := rfl
@[simp] theorem State.reply_wx (r : Reply) : (s.reply r).wx = s.wx := rfl
@[simp] theorem State.reply_lineA (r : Reply) : (s.reply r).lineA = s.lineA := rfl
@[simp] theorem State.reply_lineB (r : Reply) : (s.reply r).lineB = s.lineB := rfl
@[simp] theorem State.reply_stations (r : Reply) : (s.reply r).stations = s.stations := rfl
@[simp] theorem State.reply_serviceId (r : Reply) : (s.reply r).serviceId = s.serviceId := rfl
@[simp] theorem State.reply_notices (r : Reply) : (s.reply r).notices = s.notices := rfl
@[simp] theorem State.reply_posted (r : Reply) : (s.reply r).posted = s.posted := rfl
@[simp] theorem State.reply_pending (r : Reply) : (s.reply r).pending = s.pending := rfl
@[simp] theorem State.reply_mv (r : Reply) (m' : MoverNo) : (s.reply r).mv m' = s.mv m' := rfl
@[simp] theorem State.reply_stn (r : Reply) (st' : StationNo) : (s.reply r).stn st' = s.stn st' := rfl
@[simp] theorem State.reply_rule (r : Reply) (c' : RuleNo) : (s.reply r).rule c' = s.rule c' := rfl
@[simp] theorem State.reply_trig (r : Reply) (m' : MoverNo) : (s.reply r).trig m' = s.trig m' := rfl
@[simp] theorem State.reply_grant (r : Reply) (m' : MoverNo) : (s.reply r).grant m' = s.grant m' := rfl
@[simp] theorem State.reply_line (r : Reply) (l : LineId) : (s.reply r).line l = s.line l := by cases l <;> rfl

/-! ## setReceiver -/

@[simp] theorem State.setReceiver_timebase (r : Receiver) : (s.setReceiver r).timebase = s.timebase := rfl
@[simp] theorem State.setReceiver_pins (r : Receiver) : (s.setReceiver r).pins = s.pins := rfl
@[simp] theorem State.setReceiver_movers (r : Receiver) : (s.setReceiver r).movers = s.movers := rfl
@[simp] theorem State.setReceiver_pool (r : Receiver) : (s.setReceiver r).pool = s.pool := rfl
@[simp] theorem State.setReceiver_power (r : Receiver) : (s.setReceiver r).power = s.power := rfl
@[simp] theorem State.setReceiver_rules (r : Receiver) : (s.setReceiver r).rules = s.rules := rfl
@[simp] theorem State.setReceiver_wx (r : Receiver) : (s.setReceiver r).wx = s.wx := rfl
@[simp] theorem State.setReceiver_lineA (r : Receiver) : (s.setReceiver r).lineA = s.lineA := rfl
@[simp] theorem State.setReceiver_lineB (r : Receiver) : (s.setReceiver r).lineB = s.lineB := rfl
@[simp] theorem State.setReceiver_stations (r : Receiver) : (s.setReceiver r).stations = s.stations := rfl
@[simp] theorem State.setReceiver_serviceId (r : Receiver) : (s.setReceiver r).serviceId = s.serviceId := rfl
@[simp] theorem State.setReceiver_notices (r : Receiver) : (s.setReceiver r).notices = s.notices := rfl
@[simp] theorem State.setReceiver_posted (r : Receiver) : (s.setReceiver r).posted = s.posted := rfl
@[simp] theorem State.setReceiver_pending (r : Receiver) : (s.setReceiver r).pending = s.pending := rfl
@[simp] theorem State.setReceiver_mv (r : Receiver) (m' : MoverNo) : (s.setReceiver r).mv m' = s.mv m' := rfl
@[simp] theorem State.setReceiver_stn (r : Receiver) (st' : StationNo) : (s.setReceiver r).stn st' = s.stn st' := rfl
@[simp] theorem State.setReceiver_rule (r : Receiver) (c' : RuleNo) : (s.setReceiver r).rule c' = s.rule c' := rfl
@[simp] theorem State.setReceiver_trig (r : Receiver) (m' : MoverNo) : (s.setReceiver r).trig m' = s.trig m' := rfl
@[simp] theorem State.setReceiver_grant (r : Receiver) (m' : MoverNo) : (s.setReceiver r).grant m' = s.grant m' := rfl
@[simp] theorem State.setReceiver_line (r : Receiver) (l : LineId) : (s.setReceiver r).line l = s.line l := by cases l <;> rfl

/-! ## modLine -/

@[simp] theorem State.modLine_timebase (l : LineId) (f : LineCtl → LineCtl) : (s.modLine l f).timebase = s.timebase := by cases l <;> rfl
@[simp] theorem State.modLine_pins (l : LineId) (f : LineCtl → LineCtl) : (s.modLine l f).pins = s.pins := by cases l <;> rfl
@[simp] theorem State.modLine_movers (l : LineId) (f : LineCtl → LineCtl) : (s.modLine l f).movers = s.movers := by cases l <;> rfl
@[simp] theorem State.modLine_pool (l : LineId) (f : LineCtl → LineCtl) : (s.modLine l f).pool = s.pool := by cases l <;> rfl
@[simp] theorem State.modLine_power (l : LineId) (f : LineCtl → LineCtl) : (s.modLine l f).power = s.power := by cases l <;> rfl
@[simp] theorem State.modLine_rules (l : LineId) (f : LineCtl → LineCtl) : (s.modLine l f).rules = s.rules := by cases l <;> rfl
@[simp] theorem State.modLine_wx (l : LineId) (f : LineCtl → LineCtl) : (s.modLine l f).wx = s.wx := by cases l <;> rfl
@[simp] theorem State.modLine_stations (l : LineId) (f : LineCtl → LineCtl) : (s.modLine l f).stations = s.stations := by cases l <;> rfl
@[simp] theorem State.modLine_serviceId (l : LineId) (f : LineCtl → LineCtl) : (s.modLine l f).serviceId = s.serviceId := by cases l <;> rfl
@[simp] theorem State.modLine_link (l : LineId) (f : LineCtl → LineCtl) : (s.modLine l f).link = s.link := by cases l <;> rfl
@[simp] theorem State.modLine_notices (l : LineId) (f : LineCtl → LineCtl) : (s.modLine l f).notices = s.notices := by cases l <;> rfl
@[simp] theorem State.modLine_posted (l : LineId) (f : LineCtl → LineCtl) : (s.modLine l f).posted = s.posted := by cases l <;> rfl
@[simp] theorem State.modLine_pending (l : LineId) (f : LineCtl → LineCtl) : (s.modLine l f).pending = s.pending := by cases l <;> rfl
@[simp] theorem State.modLine_mv (l : LineId) (f : LineCtl → LineCtl) (m' : MoverNo) : (s.modLine l f).mv m' = s.mv m' := by cases l <;> rfl
@[simp] theorem State.modLine_stn (l : LineId) (f : LineCtl → LineCtl) (st' : StationNo) : (s.modLine l f).stn st' = s.stn st' := by cases l <;> rfl
@[simp] theorem State.modLine_rule (l : LineId) (f : LineCtl → LineCtl) (c' : RuleNo) : (s.modLine l f).rule c' = s.rule c' := by cases l <;> rfl
@[simp] theorem State.modLine_trig (l : LineId) (f : LineCtl → LineCtl) (m' : MoverNo) : (s.modLine l f).trig m' = s.trig m' := by cases l <;> rfl
@[simp] theorem State.modLine_grant (l : LineId) (f : LineCtl → LineCtl) (m' : MoverNo) : (s.modLine l f).grant m' = s.grant m' := by cases l <;> rfl
@[simp] theorem State.modLine_line (l : LineId) (f : LineCtl → LineCtl) : (s.modLine l f).line l = f (s.line l) := by
  cases l <;> rfl
theorem State.modLine_line_ne {l l' : LineId} (h : l' ≠ l) (f : LineCtl → LineCtl) : (s.modLine l f).line l' = s.line l' := by
  cases l <;> cases l' <;> first | rfl | exact absurd rfl h

/-! ## What the writes of the tables leave to read -/

@[simp] theorem State.setMv_mv (m : MoverNo) (x : Mover) : (s.setMv m x).mv m = x := by
  simp [State.mv, State.setMv]
theorem State.setMv_mv_ne {m m' : MoverNo} (h : m' ≠ m) (x : Mover) : (s.setMv m x).mv m' = s.mv m' := by
  have h : m.val ≠ m'.val := fun e => h (Fin.ext e.symm)
  simp [State.mv, State.setMv, h]
@[simp] theorem State.modMv_mv (m : MoverNo) (f : Mover → Mover) : (s.modMv m f).mv m = f (s.mv m) := s.setMv_mv m _
theorem State.modMv_mv_ne {m m' : MoverNo} (h : m' ≠ m) (f : Mover → Mover) : (s.modMv m f).mv m' = s.mv m' :=
  s.setMv_mv_ne h _
@[simp] theorem State.setStn_stn (st : StationNo) (x : Option Station) : (s.setStn st x).stn st = x := by
  simp [State.stn, State.setStn]
theorem State.setStn_stn_ne {st st' : StationNo} (h : st' ≠ st) (x : Option Station) : (s.setStn st x).stn st' = s.stn st' := by
  have h : st.val ≠ st'.val := fun e => h (Fin.ext e.symm)
  simp [State.stn, State.setStn, h]
@[simp] theorem State.setRule_rule (c : RuleNo) (x : Option Rule) : (s.setRule c x).rule c = x := by
  simp [State.rule, State.setRule]
theorem State.setRule_rule_ne {c c' : RuleNo} (h : c' ≠ c) (x : Option Rule) : (s.setRule c x).rule c' = s.rule c' := by
  have h : c.val ≠ c'.val := fun e => h (Fin.ext e.symm)
  simp [State.rule, State.setRule, h]
@[simp] theorem State.setGrant_grant (m : MoverNo) (g : Nat) : (s.setGrant m g).grant m = g := by
  simp [State.grant, State.setGrant]
theorem State.setGrant_grant_ne {m m' : MoverNo} (h : m' ≠ m) (g : Nat) : (s.setGrant m g).grant m' = s.grant m' := by
  have h : m.val ≠ m'.val := fun e => h (Fin.ext e.symm)
  simp [State.grant, State.setGrant, h]
@[simp] theorem State.modTrig_trig (m : MoverNo) (f : Trigger → Trigger) : (s.modTrig m f).trig m = f (s.trig m) := by
  simp [State.trig, State.modTrig]
theorem State.modTrig_trig_ne {m m' : MoverNo} (h : m' ≠ m) (f : Trigger → Trigger) : (s.modTrig m f).trig m' = s.trig m' := by
  have h : m.val ≠ m'.val := fun e => h (Fin.ext e.symm)
  simp [State.trig, State.modTrig, h]
@[simp] theorem State.modStn_stn (st : StationNo) (f : Station → Station) : (s.modStn st f).stn st = (s.stn st).map f :=
  s.setStn_stn st _
theorem State.modStn_stn_ne {st st' : StationNo} (h : st' ≠ st) (f : Station → Station) : (s.modStn st f).stn st' = s.stn st' :=
  s.setStn_stn_ne h _

/-! ## What the requests write of a clearance rule -/

@[simp] theorem Rule.grantTo_state (r : Rule) (m : MoverNo) (st : RuleState) : (r.grantTo m st).state = st := rfl
@[simp] theorem Rule.grantTo_waiting (r : Rule) (m : MoverNo) (st : RuleState) : (r.grantTo m st).waiting = r.waiting := rfl
@[simp] theorem Rule.grantTo_g (r : Rule) (m : MoverNo) (st : RuleState) : (r.grantTo m st).g = r.g := rfl
@[simp] theorem Rule.grantTo_k (r : Rule) (m : MoverNo) (st : RuleState) : (r.grantTo m st).k = r.k := rfl
@[simp] theorem Rule.grantTo_refused (r : Rule) (m : MoverNo) (st : RuleState) :
    (r.grantTo m st).refused = r.refused.filter fun w => w != m := rfl
@[simp] theorem Rule.refuse_state (r : Rule) (m : MoverNo) : (r.refuse m).state = r.state := rfl
@[simp] theorem Rule.refuse_waiting (r : Rule) (m : MoverNo) : (r.refuse m).waiting = r.waiting := rfl
@[simp] theorem Rule.refuse_g (r : Rule) (m : MoverNo) : (r.refuse m).g = r.g := rfl
@[simp] theorem Rule.refuse_k (r : Rule) (m : MoverNo) : (r.refuse m).k = r.k := rfl
@[simp] theorem Rule.mem_refuse_refused (r : Rule) (m : MoverNo) : m ∈ (r.refuse m).refused := by
  unfold Rule.refuse
  by_cases h : m ∈ r.refused <;> simp [h]

/-- What a request leaves of its rule: granted by its state, or refused, the mover once on its list (R113, R114, R117, R118). -/
theorem State.requestRule_rule {c : RuleNo} {r : Rule} (m : MoverNo) (h : s.rule c = some r) :
    (s.requestRule c m).rule c = some
      (match s.grantedState r m with
       | some st => r.grantTo m st
       | none => { r.refuse m with waiting := if m ∈ r.waiting then r.waiting else r.waiting ++ [m] }) := by
  simp only [State.requestRule, State.joinRule, h]
  generalize s.grantedState r m = g
  cases g with
  | some st => exact s.setRule_rule c _
  | none =>
    by_cases w : m ∈ r.waiting
    · simp only [List.contains_eq_mem, w, decide_true, if_true]
      exact s.setRule_rule c _
    · simp [w, State.rule, State.setRule, State.raise]

end Sys2Proof.Machine
end

