-- ==== Sys2Proof/Laws/Keeps.lean ====
section
/-! SUPPORT. What an operation keeps: the queue of commands, and each of the invariants of Safety.lean. `Keeps s t` is shown once for
every operation; it composes, so a meaning keeps what the operations it is made of keep. -/

namespace Sys2Proof.Machine

/-- From s to t the waiting commands stand, no reply of an execution starts to wait, and every invariant of Safety.lean that held holds. -/
structure Keeps (s t : State) : Prop where
  pending : t.pending = s.pending
  quiet : s.link.replies.all Reply.full = true → t.link.replies.all Reply.full = true
  notices : s.notices.bounded → t.notices.bounded
  link : s.link.Bounded → t.link.Bounded
  queues : s.queuesSound → t.queuesSound
  power : s.powerSound → t.powerSound
  pool : s.poolSound → t.poolSound
  chains : s.chainsSound → t.chainsSound

theorem Keeps.refl (s : State) : Keeps s s := ⟨rfl, id, id, id, id, id, id, id⟩

theorem Keeps.trans {s t u : State} (h : Keeps s t) (k : Keeps t u) : Keeps s u :=
  ⟨k.pending.trans h.pending, k.quiet ∘ h.quiet, k.notices ∘ h.notices, k.link ∘ h.link, k.queues ∘ h.queues, k.power ∘ h.power, k.pool ∘ h.pool,
    k.chains ∘ h.chains⟩

/-- A fold of an operation that keeps keeps. -/
theorem Keeps.foldl {α : Type} {f : State → α → State} (hf : ∀ s a, Keeps s (f s a)) (l : List α) (s : State) :
    Keeps s (l.foldl f s) := by
  induction l generalizing s with
  | nil => exact .refl s
  | cons a l ih => exact (hf s a).trans (ih _)

/-- A choice between two states that are both reached by keeping. -/
theorem Keeps.ite {c : Prop} [Decidable c] {s t u : State} (h : c → Keeps s t) (k : ¬c → Keeps s u) :
    Keeps s (if c then t else u) := by
  split
  · exact h ‹_›
  · exact k ‹_›

/-! ## Slots: counting them in the four places -/

/-- A flatMap whose function changes at one place trades what stood there for what stands there now. -/
theorem count_flatMap_change (a : SlotNo) (m : MoverNo) (f g : MoverNo → List SlotNo) (hfg : ∀ x, x ≠ m → g x = f x) :
    ∀ l : List MoverNo, l.Nodup → m ∈ l →
      (l.flatMap g).count a + (f m).count a = (l.flatMap f).count a + (g m).count a := by
  intro l
  induction l with
  | nil => intro _ h; cases h
  | cons x l ih =>
    intro hn hm
    obtain ⟨hx, hl⟩ := List.nodup_cons.1 hn
    simp only [List.flatMap_cons, List.count_append]
    by_cases e : x = m
    · subst e
      have : l.flatMap g = l.flatMap f := by
        refine List.flatMap_congr fun y hy => hfg y fun e => ?_
        subst e
        exact hx hy
      rw [this]
      omega
    · have := ih hl (by cases hm with
        | head => exact absurd rfl e
        | tail _ h => exact h)
      rw [hfg x e]
      omega

/-- How often a slot stands in the four places. -/
theorem count_slots (s : State) (a : SlotNo) :
    s.slots.count a =
      s.pool.free.count a + (allMovers.flatMap fun m => (s.mv m).slots).count a +
        (s.pool.log.map fun r => r.seg.slot).count a := by
  simp [State.slots, List.count_append, Nat.add_assoc]

/-- A change of mover m and of the pool that trades slots between the places keeps the partition (R31). -/
theorem poolSound_of_trade {s t : State} (m : MoverNo) (hmv : ∀ m', m' ≠ m → (t.mv m').slots = (s.mv m').slots)
    (h : ∀ a, t.pool.free.count a + (t.mv m).slots.count a + (t.pool.log.map fun r => r.seg.slot).count a =
      s.pool.free.count a + (s.mv m).slots.count a + (s.pool.log.map fun r => r.seg.slot).count a)
    (hs : s.poolSound) : t.poolSound := by
  refine List.Perm.trans (List.perm_iff_count.2 fun a => ?_) hs
  have k := count_flatMap_change a m (fun m => (s.mv m).slots) (fun m => (t.mv m).slots) hmv allMovers
    (List.nodup_finRange 8) (List.mem_finRange m)
  have := h a
  rw [count_slots, count_slots]
  omega

/-- Where no mover's slots and neither list of the pool change, the partition stands. -/
theorem poolSound_of_eq {s t : State} (hmv : ∀ m, (t.mv m).slots = (s.mv m).slots) (hf : t.pool.free = s.pool.free)
    (hl : t.pool.log = s.pool.log) (hs : s.poolSound) : t.poolSound := by
  have : (fun m => (t.mv m).slots) = fun m => (s.mv m).slots := funext hmv
  simpa [State.poolSound, State.slots, this, hf, hl] using hs

/-! ## Sums of grants -/

/-- A list with one entry replaced trades the entry in its sum. -/
theorem sum_set (l : List Nat) (i x : Nat) (h : i < l.length) : (l.set i x).sum + l[i] = l.sum + x := by
  induction l generalizing i with
  | nil => simp at h
  | cons a l ih =>
    cases i with
    | zero => simp; omega
    | succ i =>
      have := ih i (by simpa using h)
      simp only [List.set_cons_succ, List.sum_cons, List.getElem_cons_succ]
      omega

/-- The granted sum after a grant is replaced. -/
theorem grantedSum_setGrant (s : State) (m : MoverNo) (g : Nat) :
    (s.setGrant m g).grantedSum + s.grant m = s.grantedSum + g := by
  have := sum_set s.power.grants.toList m.val g (by simp)
  simpa [State.grantedSum, State.setGrant, State.grant, Vector.toList_set] using this

/-! ## The primitive updates -/

/-- A mover changed in anything but its chain, its executing slot and its record. -/
theorem modMv_keeps (s : State) (m : MoverNo) (f : Mover → Mover) (hs : (f (s.mv m)).slots = (s.mv m).slots)
    (hc : (f (s.mv m)).chain = (s.mv m).chain) (hr : (f (s.mv m)).record = (s.mv m).record) : Keeps s (s.modMv m f) where
  pending := rfl
  quiet := id
  notices := id
  link := id
  queues := id
  power := id
  pool := by
    refine poolSound_of_eq (fun m' => ?_) rfl rfl
    by_cases e : m' = m
    · subst e; simpa using hs
    · rw [State.modMv_mv_ne s e]
  chains := fun h m' => by
    by_cases e : m' = m
    · subst e
      have := h m'
      simp only [Mover.chainSound, Mover.cfg, State.modMv_mv, hc, hr] at this ⊢
      exact this
    · rw [State.modMv_mv_ne s e]
      exact h m'

/-- A mover changed by a function that writes none of chain, executing place and record. -/
theorem modMv_keeps' (s : State) (m : MoverNo) (f : Mover → Mover) (hc : ∀ x, (f x).chain = x.chain)
    (he : ∀ x, (f x).exec = x.exec) (hr : ∀ x, (f x).record = x.record) : Keeps s (s.modMv m f) :=
  modMv_keeps s m f (by simp [Mover.slots, hc, he]) (hc _) (hr _)

theorem setStn_keeps (s : State) (st : StationNo) (x : Option Station) : Keeps s (s.setStn st x) :=
  ⟨rfl, id, id, id, id, id, id, id⟩

theorem modStn_keeps (s : State) (st : StationNo) (f : Station → Station) : Keeps s (s.modStn st f) :=
  ⟨rfl, id, id, id, id, id, id, id⟩

theorem setRule_keeps (s : State) (c : RuleNo) (x : Option Rule) : Keeps s (s.setRule c x) := ⟨rfl, id, id, id, id, id, id, id⟩

theorem modRule_keeps (s : State) (c : RuleNo) (f : Rule → Rule) : Keeps s (s.modRule c f) := ⟨rfl, id, id, id, id, id, id, id⟩

theorem modTrig_keeps (s : State) (m : MoverNo) (f : Trigger → Trigger) : Keeps s (s.modTrig m f) :=
  ⟨rfl, id, id, id, id, id, id, id⟩

theorem post_keeps (s : State) (i : Instr) : Keeps s (s.post i) := ⟨rfl, id, id, id, id, id, id, id⟩

theorem unpost_keeps (s : State) (i : Instr) : Keeps s (s.unpost i) := ⟨rfl, id, id, id, id, id, id, id⟩

theorem postOnce_keeps (s : State) (i : Instr) : Keeps s (s.postOnce i) :=
  Keeps.ite (fun _ => .refl s) fun _ => post_keeps s i

/-- The Weather Monitor replaced. -/
theorem wx_keeps (s : State) (w : Weather) : Keeps s { s with wx := w } := ⟨rfl, id, id, id, id, id, id, id⟩

/-- The pins replaced. -/
theorem pins_keeps (s : State) (p : Pins) : Keeps s { s with pins := p } := ⟨rfl, id, id, id, id, id, id, id⟩

/-- The arbiter changed in anything but its grants and its budget. -/
theorem waiting_keeps (s : State) (w : List PowerRequest) (n : MoverNo) :
    Keeps s { s with power := { s.power with waiting := w, pointer := n } } :=
  ⟨rfl, id, id, id, id, id, id, id⟩

/-- A class queue that accepts a notice stays within its size (R178). -/
theorem accept_bounded (q : ClassQueue) (x : Notice) (h : q.bounded) : (q.accept x).bounded := by
  unfold ClassQueue.accept ClassQueue.bounded at *
  split
  · exact h
  · split
    · simp; omega
    · exact h

/-- A Notice Unit with one class replaced by a bounded one. -/
theorem put_bounded (n : NoticeUnit) (c : NoticeClass) (q : ClassQueue) (h : n.bounded) (hq : q.bounded) :
    (n.put c q).bounded := by
  obtain ⟨h1, h2, h3, h4⟩ := h
  cases c
  · exact ⟨hq, h2, h3, h4⟩
  · exact ⟨h1, hq, h3, h4⟩
  · exact ⟨h1, h2, hq, h4⟩
  · exact ⟨h1, h2, h3, hq⟩

/-- Every class of a bounded Notice Unit is bounded. -/
theorem get_bounded (n : NoticeUnit) (c : NoticeClass) (h : n.bounded) : (n.get c).bounded := by
  obtain ⟨h1, h2, h3, h4⟩ := h
  cases c
  · exact h1
  · exact h2
  · exact h3
  · exact h4

/-- Raising a notice (R178). -/
theorem raise_keeps (s : State) (k : NoticeKind) : Keeps s (s.raise k) :=
  ⟨rfl, id, fun h => put_bounded _ _ _ h (accept_bounded _ _ (get_bounded _ _ h)), id, id, id, id, id⟩

/-- A line changed by a function that lets its service queue not grow. -/
theorem modLine_keeps (s : State) (l : LineId) (f : LineCtl → LineCtl) (h : ∀ c, (f c).queue.length ≤ c.queue.length) :
    Keeps s (s.modLine l f) := by
  cases l
  · exact ⟨rfl, id, id, id, fun k => ⟨(h _).trans k.1, k.2⟩, id, id, id⟩
  · exact ⟨rfl, id, id, id, fun k => ⟨k.1, (h _).trans k.2⟩, id, id, id⟩

/-- A line changed by a function that writes its service queue no more. -/
theorem modLine_keeps' (s : State) (l : LineId) (f : LineCtl → LineCtl) (h : ∀ c, (f c).queue = c.queue) :
    Keeps s (s.modLine l f) :=
  modLine_keeps s l f fun c => le_of_eq (congrArg List.length (h c))

/-- The link port replaced by one whose bounds hold where they held. -/
theorem link_keeps (s : State) (p : LinkPort) (h : s.link.Bounded → p.Bounded)
    (q : s.link.replies.all Reply.full = true → p.replies.all Reply.full = true) : Keeps s { s with link := p } :=
  ⟨rfl, q, id, h, id, id, id, id⟩

/-- A grant replaced so that the budget still covers the sum (R93). -/
theorem setGrant_keeps (s : State) (m : MoverNo) (g : Nat)
    (h : s.powerSound → s.grantedSum + g ≤ s.power.budget + s.grant m) : Keeps s (s.setGrant m g) where
  pending := rfl
  quiet := id
  notices := id
  link := id
  queues := id
  power := fun k => by
    have := grantedSum_setGrant s m g
    have := h k
    show (s.setGrant m g).grantedSum ≤ s.power.budget
    omega
  pool := id
  chains := id

/-- A lower grant. -/
theorem setGrant_keeps_of_le (s : State) (m : MoverNo) (g : Nat) (h : g ≤ s.grant m) : Keeps s (s.setGrant m g) :=
  setGrant_keeps s m g fun k => by unfold State.powerSound at k; omega

end Sys2Proof.Machine
end

