-- ==== Sys2Proof/Laws/KeepsMover.lean ====
section
/-! SUPPORT. What the operations of the movers, the pool, the arbiter and the Clearance Table keep. -/

namespace Sys2Proof.Machine

/-! ## Ops -/

theorem startTlock_keeps (s : State) (m : MoverNo) : Keeps s (s.startTlock m) :=
  (unpost_keeps s _).trans (modMv_keeps' _ _ _ (fun _ => rfl) (fun _ => rfl) fun _ => rfl)

theorem cancelTlock_keeps (s : State) (m : MoverNo) : Keeps s (s.cancelTlock m) :=
  (unpost_keeps s _).trans (modMv_keeps' _ _ _ (fun _ => rfl) (fun _ => rfl) fun _ => rfl)

theorem startTbrk_keeps (s : State) (m : MoverNo) : Keeps s (s.startTbrk m) :=
  (unpost_keeps s _).trans (modMv_keeps' _ _ _ (fun _ => rfl) (fun _ => rfl) fun _ => rfl)

theorem cancelTbrk_keeps (s : State) (m : MoverNo) : Keeps s (s.cancelTbrk m) :=
  (unpost_keeps s _).trans (modMv_keeps' _ _ _ (fun _ => rfl) (fun _ => rfl) fun _ => rfl)

theorem startTstop_keeps (s : State) (m : MoverNo) : Keeps s (s.startTstop m) :=
  (unpost_keeps s _).trans (modMv_keeps' _ _ _ (fun _ => rfl) (fun _ => rfl) fun _ => rfl)

theorem cancelTstop_keeps (s : State) (m : MoverNo) : Keeps s (s.cancelTstop m) :=
  (unpost_keeps s _).trans (modMv_keeps' _ _ _ (fun _ => rfl) (fun _ => rfl) fun _ => rfl)

theorem cancelAlign_keeps (s : State) (m : MoverNo) : Keeps s (s.cancelAlign m) :=
  (unpost_keeps s _).trans (modMv_keeps' _ _ _ (fun _ => rfl) (fun _ => rfl) fun _ => rfl)

theorem pauseSegmentTimers_keeps (s : State) (m : MoverNo) : Keeps s (s.pauseSegmentTimers m) :=
  (unpost_keeps s _).trans (unpost_keeps _ _)

theorem writeImages_keeps (s : State) (m : MoverNo) : Keeps s (s.writeImages m) := by
  unfold State.writeImages
  dsimp only
  split
  · exact (Keeps.foldl (fun s t => modStn_keeps s _ _) _ s).trans (modStn_keeps _ _ _)
  · exact Keeps.foldl (fun s t => modStn_keeps s _ _) _ s

/-- Entering a state by a function that writes none of chain, executing place and record. -/
theorem enter_keeps (s : State) (m : MoverNo) (st : MoverState) (f : Mover → Mover) (hc : ∀ x, (f x).chain = x.chain)
    (he : ∀ x, (f x).exec = x.exec) (hr : ∀ x, (f x).record = x.record) : Keeps s (s.enter m st f) :=
  (modMv_keeps' s m (fun x => { f x with state := st }) hc he hr).trans (writeImages_keeps _ _)

/-! ## The Segment Pool -/

/-- Staging: the slot goes from the free list to the chain (R31), where the chain has room (R33). -/
theorem placeSegment_keeps (s : State) (m : MoverNo) (mo : Motion) (o : Origin)
    (h : s.chainsSound → (s.mv m).chain.length < (s.mv m).cfg.cap) : Keeps s (s.placeSegment m mo o) := by
  unfold State.placeSegment
  split
  · exact .refl s
  · rename_i slot rest hf
    refine ⟨rfl, id, id, id, id, id, ?_, ?_⟩
    · refine poolSound_of_trade m (fun m' e => ?_) fun a => ?_
      · rw [State.modMv_mv_ne _ e]; rfl
      · simp only [State.modMv_mv, State.modMv_pool, hf]
        simp [Mover.slots, makeSegment, State.mv, List.count_cons]
        omega
    · intro k m'
      by_cases e : m' = m
      · subst e
        have := h k
        have := (k m').2
        simp only [Mover.chainSound, State.modMv_mv, Mover.cfg, List.length_append, List.length_cons, List.length_nil] at *
        simp only [State.mv] at *
        omega
      · rw [State.modMv_mv_ne _ e]
        exact k m'

/-- The take: the slot goes from the chain to the executing place (R31). -/
theorem take_keeps (s : State) (m : MoverNo) : Keeps s (s.take m) := by
  unfold State.take
  split
  · exact .refl s
  · exact .refl s
  · rename_i seg rest hc he
    have key : Keeps s (s.modMv m fun x => { x with chain := rest, exec := some ⟨seg, seg.kind.initialPart⟩ }) := by
      refine ⟨rfl, id, id, id, id, id, ?_, ?_⟩
      · refine poolSound_of_trade m (fun m' e => ?_) fun a => ?_
        · rw [State.modMv_mv_ne _ e]
        · simp [Mover.slots, hc, he, List.count_cons]
      · intro k m'
        by_cases e : m' = m
        · subst e
          have := k m'
          simp only [Mover.chainSound, hc, List.length_cons, State.modMv_mv, Mover.cfg] at *
          omega
        · rw [State.modMv_mv_ne _ e]
          exact k m'
    dsimp only
    split
    · exact key.trans (raise_keeps _ _)
    · exact key

/-- The arm of the completion log replaced. -/
theorem logArm_keeps (s : State) (b : Bool) : Keeps s { s with pool := { s.pool with logArm := b } } :=
  ⟨rfl, id, id, id, id, id, id, id⟩

theorem thresholdTest_keeps (s : State) : Keeps s s.thresholdTest := by
  unfold State.thresholdTest
  dsimp only
  split
  · exact (logArm_keeps s false).trans (raise_keeps _ _)
  · split
    · exact logArm_keeps s true
    · exact .refl s

/-- Logging the executing segment: the slot goes from the executing place to the log (R31, R46). -/
theorem logExecuting_keeps (s : State) (m : MoverNo) (o : SegOutcome) (k : Option FaultKind) :
    Keeps s (s.logExecuting m o k) := by
  unfold State.logExecuting
  split
  · exact .refl s
  · rename_i e he
    refine ((unpost_keeps s (.dwellExpiry m)).trans (cancelAlign_keeps _ m)).trans ?_
    generalize ht : (s.unpost (.dwellExpiry m)).cancelAlign m = t
    have het : (t.mv m).exec = some e := by
      rw [← ht]
      simp [State.cancelAlign, he]
    unfold State.appendLog
    refine Keeps.trans ?_ (thresholdTest_keeps _)
    refine ⟨rfl, id, id, id, id, id, ?_, ?_⟩
    · refine poolSound_of_trade m (fun m' e => ?_) fun a => ?_
      · show ((t.modMv m fun x => { x with exec := none }).mv m').slots = _
        rw [State.modMv_mv_ne _ e]
      · show t.pool.free.count a + ((t.modMv m fun x => { x with exec := none }).mv m).slots.count a + _ = _
        rw [State.modMv_mv]
        simp [Mover.slots, het, List.count_cons]
        omega
    · intro k m'
      show ((t.modMv m fun x => { x with exec := none }).mv m').chainSound
      by_cases e : m' = m
      · subst e
        rw [State.modMv_mv]
        exact k m'
      · rw [State.modMv_mv_ne _ e]
        exact k m'

/-- A pending segment logged FLUSHED from the head of the chain (R31, R49). -/
theorem flushHead_keeps (s : State) (m : MoverNo) (seg : Segment) (rest : List Segment) (h : (s.mv m).chain = seg :: rest) :
    Keeps s (s.flushHead m seg) := by
  unfold State.flushHead State.appendLog
  refine Keeps.trans ?_ (thresholdTest_keeps _)
  refine ⟨rfl, id, id, id, id, id, ?_, ?_⟩
  · refine poolSound_of_trade m (fun m' e => ?_) fun a => ?_
    · show ((s.modMv m fun x => { x with chain := x.chain.tail }).mv m').slots = _
      rw [State.modMv_mv_ne _ e]
    · show s.pool.free.count a + ((s.modMv m fun x => { x with chain := x.chain.tail }).mv m).slots.count a + _ = _
      rw [State.modMv_mv]
      simp [Mover.slots, h, List.count_cons]
      omega
  · intro k m'
    show ((s.modMv m fun x => { x with chain := x.chain.tail }).mv m').chainSound
    by_cases e : m' = m
    · subst e
      have := k m'
      simp only [State.modMv_mv, Mover.chainSound, Mover.cfg, h, List.tail_cons, List.length_cons] at *
      omega
    · rw [State.modMv_mv_ne _ e]
      exact k m'

@[simp] theorem thresholdTest_mv (s : State) (m : MoverNo) : s.thresholdTest.mv m = s.mv m := by
  unfold State.thresholdTest
  dsimp only
  split
  · rfl
  · split <;> rfl

@[simp] theorem flushHead_mv (s : State) (m : MoverNo) (seg : Segment) :
    (s.flushHead m seg).mv m = { s.mv m with chain := (s.mv m).chain.tail } := by
  unfold State.flushHead State.appendLog
  rw [thresholdTest_mv]
  exact State.modMv_mv s m fun x => { x with chain := x.chain.tail }

/-- The flush of a chain: every slot of it goes to the log, and the mover is as it was but for its chain (R48, R49). -/
theorem flushChain_spec (s : State) (m : MoverNo) :
    Keeps s (s.flushChain m) ∧ (s.flushChain m).mv m = { s.mv m with chain := [] } := by
  unfold State.flushChain
  generalize h : (s.mv m).chain = l
  induction l generalizing s with
  | nil =>
    refine ⟨.refl s, ?_⟩
    show s.mv m = _
    rw [← h]
  | cons seg l ih =>
    have := ih (s.flushHead m seg) (by rw [flushHead_mv]; simp [h])
    refine ⟨(flushHead_keeps s m seg l h).trans this.1, this.2.trans ?_⟩
    rw [flushHead_mv]

theorem flushChain_keeps (s : State) (m : MoverNo) : Keeps s (s.flushChain m) := (flushChain_spec s m).1

/-! ## The Power Arbiter -/

theorem enterReleasing_keeps (s : State) (m : MoverNo) : Keeps s (s.enterReleasing m) := by
  unfold State.enterReleasing
  refine Keeps.trans ?_ (startTbrk_keeps _ _)
  exact enter_keeps s m _ _ (fun _ => rfl) (fun _ => rfl) fun _ => rfl

theorem enterUnlocking_keeps (s : State) (m : MoverNo) : Keeps s (s.enterUnlocking m) := by
  unfold State.enterUnlocking
  refine Keeps.trans ?_ (startTlock_keeps _ _)
  exact enter_keeps s m _ _ (fun _ => rfl) (fun _ => rfl) fun _ => rfl

theorem unlock_keeps (s : State) (m : MoverNo) : Keeps s (s.unlock m) :=
  Keeps.ite (fun _ => enterReleasing_keeps s m) fun _ => enterUnlocking_keeps s m

/-- A grant takes at most the free budget (R96). -/
theorem grantEntry_keeps (s : State) (e : PowerRequest) : Keeps s (s.grantEntry e) := by
  unfold State.grantEntry
  refine ((setGrant_keeps s e.mover _ fun h => ?_).trans (waiting_keeps _ _ _)).trans (unlock_keeps _ _)
  unfold State.freeBudget
  unfold State.powerSound at h
  omega

theorem arbitrateN_keeps (n : Nat) : ∀ s : State, Keeps s (State.arbitrateN n s) := by
  induction n with
  | zero => exact .refl
  | succ n ih =>
    intro s
    unfold State.arbitrateN
    split
    · exact .refl s
    · exact (grantEntry_keeps s _).trans (ih _)

theorem arbitrate_keeps (s : State) : Keeps s s.arbitrate := arbitrateN_keeps _ s

theorem requestArrival_keeps (s : State) (m : MoverNo) : Keeps s (s.requestArrival m) := by
  unfold State.requestArrival
  have h := (waiting_keeps s (s.power.waiting ++ [s.requestOf m]) s.power.pointer).trans (arbitrate_keeps _)
  exact Keeps.ite (fun _ => h.trans (raise_keeps _ _)) fun _ => h

theorem enterAwaitPower_keeps (s : State) (m : MoverNo) : Keeps s (s.enterAwaitPower m) :=
  (enter_keeps s m _ id (fun _ => rfl) (fun _ => rfl) fun _ => rfl).trans (requestArrival_keeps _ _)

theorem withdrawRequest_keeps (s : State) (m : MoverNo) : Keeps s (s.withdrawRequest m) :=
  (waiting_keeps s _ s.power.pointer).trans (arbitrate_keeps _)

theorem releaseGrant_keeps (s : State) (m : MoverNo) : Keeps s (s.releaseGrant m) :=
  (setGrant_keeps_of_le s m 0 (Nat.zero_le _)).trans (arbitrate_keeps _)

theorem givePowerBack_keeps (s : State) (m : MoverNo) : Keeps s (s.givePowerBack m) := by
  unfold State.givePowerBack
  split
  · exact withdrawRequest_keeps s m
  all_goals first | exact releaseGrant_keeps s m | exact .refl s

/-- A partial release lowers the grant; a top-up takes at most the free budget (R101). -/
theorem adjustGrant_keeps (s : State) (m : MoverNo) : Keeps s (s.adjustGrant m) := by
  unfold State.adjustGrant
  refine Keeps.ite (fun h => (setGrant_keeps_of_le s m _ (by omega)).trans (arbitrate_keeps _)) fun _ =>
    setGrant_keeps s m _ fun k => ?_
  unfold State.freeBudget
  unfold State.powerSound at k
  omega

/-! ## The Clearance Table -/

theorem joinRule_keeps (s : State) (c : RuleNo) (m : MoverNo) : Keeps s (s.joinRule c m) := by
  unfold State.joinRule
  split
  · exact .refl s
  · exact Keeps.ite (fun _ => setRule_keeps s _ _) fun _ => (setRule_keeps s _ _).trans (raise_keeps _ _)

theorem requestRule_keeps (s : State) (c : RuleNo) (m : MoverNo) : Keeps s (s.requestRule c m) := by
  unfold State.requestRule
  split
  · exact .refl s
  · split
    · exact setRule_keeps s _ _
    · exact joinRule_keeps s c m

theorem requestPath_keeps (s : State) (m : MoverNo) (p : Option Path) : Keeps s (s.requestPath m p) :=
  Keeps.foldl (fun s c => requestRule_keeps s c m) _ s

theorem leaveLists_keeps (s : State) (m : MoverNo) : Keeps s (s.leaveLists m) :=
  Keeps.foldl (fun s c => modRule_keeps s c _) _ s

theorem leaveRule_keeps (s : State) (c : RuleNo) (m : MoverNo) : Keeps s (s.leaveRule c m) := modRule_keeps s c _

theorem resetOpenRules_keeps (s : State) (m : MoverNo) : Keeps s (s.resetOpenRules m) :=
  Keeps.foldl (fun s c => modRule_keeps s c _) _ s

/-! ## The Mover Sequencers -/

theorem holdWithBrakes_keeps (s : State) (m : MoverNo) : Keeps s (s.holdWithBrakes m) := by
  unfold State.holdWithBrakes
  refine Keeps.trans ?_ (startTbrk_keeps _ _)
  exact enter_keeps s m _ _ (fun _ => rfl) (fun _ => rfl) fun _ => rfl

theorem holdMoving_keeps (s : State) (m : MoverNo) : Keeps s (s.holdMoving m) := by
  unfold State.holdMoving
  refine (pauseSegmentTimers_keeps s m).trans ?_
  exact enter_keeps _ m _ _ (fun _ => rfl) (fun _ => rfl) fun _ => rfl

/-- The alignment set-up writes none of chain, executing place and record. -/
theorem alignSetup_frame (x : Mover) :
    x.alignSetup.chain = x.chain ∧ x.alignSetup.exec = x.exec ∧ x.alignSetup.record = x.record := by
  unfold Mover.alignSetup
  dsimp only
  split <;> exact ⟨rfl, rfl, rfl⟩

theorem beginSegment_keeps (s : State) (m : MoverNo) : Keeps s (s.beginSegment m) := by
  unfold State.beginSegment
  refine modMv_keeps s m _ ?_ ?_ ?_
  all_goals
    split
    · rfl
    · rename_i e he
      obtain ⟨hc, hx, hr⟩ := alignSetup_frame (s.mv m)
      dsimp only
      split <;> simp [Mover.slots, he, hc, hr]

theorem refuseEntry_keeps (s : State) (m : MoverNo) (cs : List RuleNo) : Keeps s (s.refuseEntry m cs) := by
  unfold State.refuseEntry
  have h := (Keeps.foldl (fun s c => joinRule_keeps s c m) cs s).trans
    (modMv_keeps' _ m (fun x => { x with holdSet := x.holdSet.add (.clearance cs) }) (fun _ => rfl) (fun _ => rfl) fun _ => rfl)
  exact Keeps.ite (fun _ => h.trans (holdWithBrakes_keeps _ _)) fun _ => h

section Completions

variable {cp : Completion} (hcp : ∀ m o s, Keeps s (cp m o s))
include hcp

theorem runningEntryWith_keeps (s : State) (m : MoverNo) : Keeps s (s.runningEntryWith cp m) := by
  unfold State.runningEntryWith
  refine Keeps.ite (fun _ => refuseEntry_keeps s m _) fun _ => ?_
  dsimp only
  have h1 := Keeps.foldl (fun s c => requestRule_keeps s c m) (s.unheldNeeds m (s.mv m).execPath) s
  refine h1.trans ?_
  generalize (s.unheldNeeds m (s.mv m).execPath).foldl (fun s c => s.requestRule c m) s = t
  have h2 : Keeps t (t.modMv m fun x =>
      { x with
        state := .running
        brakeOrdered := false
        exec := x.exec.map fun e => { e with part := { e.part with stopMark := false } } }) :=
    modMv_keeps t m _ (by simp [Mover.slots, Option.map_map, Function.comp_def]) rfl rfl
  refine h2.trans ?_
  generalize t.modMv m _ = u
  have h3 : Keeps u (if (!(t.mv m).hasBegun) = true then u.beginSegment m else u) :=
    Keeps.ite (fun _ => beginSegment_keeps u m) fun _ => .refl u
  refine h3.trans ?_
  generalize (if (!(t.mv m).hasBegun) = true then u.beginSegment m else u) = v
  have h4 := (requestPath_keeps v m (v.mv m).lookaheadPath).trans (writeImages_keeps _ m)
  exact Keeps.ite (fun _ => h4.trans (hcp _ _ _)) fun _ => h4

theorem wakeWith_keeps (s : State) (m : MoverNo) : Keeps s (s.wakeWith cp m) := by
  unfold State.wakeWith
  dsimp only
  split
  · refine Keeps.ite (fun _ => .refl s) fun _ => Keeps.ite (fun _ => runningEntryWith_keeps hcp s m) fun _ => ?_
    exact (cancelTbrk_keeps s m).trans (Keeps.ite (fun _ => enterReleasing_keeps _ _) fun _ => unlock_keeps _ _)
  · exact enterAwaitPower_keeps s m
  · exact .refl s

theorem removeReasonsWith_keeps (s : State) (m : MoverNo) (rs : List HoldReason) : Keeps s (s.removeReasonsWith cp m rs) := by
  unfold State.removeReasonsWith
  have h := modMv_keeps' s m (fun x => { x with holdSet := rs.foldl HoldSet.remove (s.mv m).holdSet }) (fun _ => rfl)
    (fun _ => rfl) fun _ => rfl
  exact Keeps.ite (fun _ => h.trans (wakeWith_keeps hcp _ _)) fun _ => h

theorem openingTestWith_keeps (m : MoverNo) (s : State) (c : RuleNo) : Keeps s (State.openingTestWith cp m s c) := by
  unfold State.openingTestWith
  split
  · exact .refl s
  · split
    · exact .refl s
    · exact (setRule_keeps s c _).trans (Keeps.foldl (fun s w => removeReasonsWith_keeps hcp s w _) _ _)

theorem openingTestsWith_keeps (s : State) (m : MoverNo) : Keeps s (s.openingTestsWith cp m) :=
  Keeps.foldl (fun s c => openingTestWith_keeps hcp m s c) _ s

end Completions

theorem enterEnding_keeps (s : State) (m : MoverNo) (seg : Segment) : Keeps s (s.enterEnding m seg) := by
  unfold State.enterEnding
  refine Keeps.trans ?_ (raise_keeps _ _)
  have h := (((givePowerBack_keeps s m).trans (leaveLists_keeps _ m)).trans
    (enter_keeps _ m .ending
      (fun x =>
        { x with
          holdSet := {}
          unlocked := false
          brakeOrdered := false
          endBrakeSeen := false
          endLockSeen := false
          endLock := seg.lock && x.cfg.lockst.isSome })
      (fun _ => rfl) (fun _ => rfl) fun _ => rfl)).trans (startTbrk_keeps _ m)
  exact Keeps.ite (fun _ => h.trans (startTlock_keeps _ _)) fun _ => h

theorem switchSegment_keeps (s : State) (m : MoverNo) : Keeps s (s.switchSegment m) := by
  unfold State.switchSegment
  have h := (((take_keeps s m).trans (adjustGrant_keeps _ m)).trans (beginSegment_keeps _ m)).trans
    (requestPath_keeps _ m (((s.take m).adjustGrant m).beginSegment m |>.mv m).execPath)
  refine Keeps.ite (fun _ => h.trans ((requestPath_keeps _ _ _).trans (writeImages_keeps _ _))) fun _ => h.trans ?_
  refine Keeps.trans ?_ (holdMoving_keeps _ _)
  exact modMv_keeps' _ m _ (fun _ => rfl) (fun _ => rfl) fun _ => rfl

theorem completeN_keeps (n : Nat) : ∀ m o s, Keeps s (State.completeN n m o s) := by
  induction n with
  | zero => exact fun _ _ s => .refl s
  | succ n ih =>
    intro m o s
    unfold State.completeN
    split
    · exact .refl s
    · refine (logExecuting_keeps s m o none).trans ?_
      refine Keeps.ite (fun _ => (enterEnding_keeps _ _ _).trans (openingTestsWith_keeps ih _ _)) fun _ => ?_
      have h := (switchSegment_keeps (s.logExecuting m o none) m).trans (openingTestsWith_keeps ih _ m)
      exact Keeps.ite (fun _ => h.trans (ih _ _ _)) fun _ => h

theorem completeSegment_keeps (m : MoverNo) (o : SegOutcome) (s : State) : Keeps s (s.completeSegment m o) :=
  completeN_keeps _ m o s

theorem runningEntry_keeps (s : State) (m : MoverNo) : Keeps s (s.runningEntry m) :=
  runningEntryWith_keeps (completeN_keeps _) s m

theorem removeReasons_keeps (s : State) (m : MoverNo) (rs : List HoldReason) : Keeps s (s.removeReasons m rs) :=
  removeReasonsWith_keeps (completeN_keeps _) s m rs

theorem openingTests_keeps (s : State) (m : MoverNo) : Keeps s (s.openingTests m) :=
  openingTestsWith_keeps (completeN_keeps _) s m

theorem enterHeld_keeps (s : State) (m : MoverNo) : Keeps s (s.enterHeld m) := by
  unfold State.enterHeld
  refine Keeps.trans (Keeps.trans ?_ (raise_keeps _ _)) (openingTests_keeps _ _)
  exact enter_keeps s m _ _ (fun _ => rfl) (fun _ => rfl) fun _ => rfl

theorem addReason_keeps (s : State) (m : MoverNo) (r : HoldReason) : Keeps s (s.addReason m r) := by
  unfold State.addReason
  refine Keeps.ite (fun _ => .refl s) fun _ => ?_
  refine (modMv_keeps' s m (fun x => { x with holdSet := (s.mv m).holdSet.add r }) (fun _ => rfl) (fun _ => rfl)
    fun _ => rfl).trans ?_
  split
  · exact (withdrawRequest_keeps _ _).trans (enterHeld_keeps _ _)
  · exact (cancelTlock_keeps _ _).trans (holdWithBrakes_keeps _ _)
  · exact holdWithBrakes_keeps _ _
  · exact holdMoving_keeps _ _
  · exact .refl _

theorem initPosition_keeps (s : State) (m : MoverNo) (mean : Int) : Keeps s (s.modMv m fun x => x.initPosition mean) :=
  modMv_keeps' s m _ (fun _ => rfl) (fun _ => rfl) fun _ => rfl

theorem initPositionAtRest_keeps (s : State) (m : MoverNo) : Keeps s (s.initPositionAtRest m) := by
  unfold State.initPositionAtRest
  split
  · exact .refl s
  · exact (initPosition_keeps s m _).trans (resetOpenRules_keeps _ _)

theorem startTaken_keeps (s : State) (m : MoverNo) : Keeps s (s.startTaken m) := by
  unfold State.startTaken
  refine Keeps.ite (fun _ => Keeps.trans ?_ (enterHeld_keeps _ _)) fun _ => enterAwaitPower_keeps s m
  exact modMv_keeps' s m _ (fun _ => rfl) (fun _ => rfl) fun _ => rfl

/-- A launch places its plan in a chain it has just emptied (R33, R42). -/
theorem launch_keeps (s : State) (m : MoverNo) : Keeps s (s.launch m) := by
  unfold State.launch
  split
  · exact .refl s
  · split
    · exact raise_keeps s _
    · rename_i plan _ _ _
      obtain ⟨hf, hm⟩ := flushChain_spec s m
      have hp : Keeps (s.flushChain m) ((s.flushChain m).placeSegment m plan .plan) := by
        refine placeSegment_keeps _ m plan .plan fun k => ?_
        have := (k m).2
        rw [hm] at this ⊢
        exact this
      exact (((hf.trans hp).trans (take_keeps _ _)).trans (raise_keeps _ _)).trans (startTaken_keeps _ _)

theorem enterIdle_keeps (s : State) (m : MoverNo) : Keeps s (s.enterIdle m) := by
  unfold State.enterIdle
  have h := ((leaveLists_keeps s m).trans
    (enter_keeps _ m .idle
      (fun x =>
        { x with
          holdSet := {}
          unlocked := false
          stopInProgress := false
          brakeOrdered := false
          skewWarn := false })
      (fun _ => rfl) (fun _ => rfl) fun _ => rfl)).trans (openingTests_keeps _ m)
  exact Keeps.ite (fun _ => h.trans ((modTrig_keeps _ _ _).trans (launch_keeps _ _))) fun _ => h

theorem abandonWork_keeps (s : State) (m : MoverNo) (o : SegOutcome) (k : Option FaultKind) :
    Keeps s (s.abandonWork m o k) := by
  unfold State.abandonWork
  have h1 := (givePowerBack_keeps s m).trans (logExecuting_keeps _ m o k)
  have h2 := (h1.trans (modTrig_keeps _ m fun t => { t with pendingFlag := false })).trans (leaveLists_keeps _ m)
  have h3 := (((h2.trans (cancelTlock_keeps _ m)).trans (cancelTbrk_keeps _ m)).trans (cancelTstop_keeps _ m)).trans
    (cancelAlign_keeps _ m)
  exact h3.trans (modMv_keeps' _ m _ (fun _ => rfl) (fun _ => rfl) fun _ => rfl)

theorem enterStopping_keeps (s : State) (m : MoverNo) : Keeps s (s.enterStopping m) :=
  ((abandonWork_keeps s m _ _).trans (enter_keeps _ m _ id (fun _ => rfl) (fun _ => rfl) fun _ => rfl)).trans
    (startTstop_keeps _ _)

theorem emergencyStop_keeps (s : State) (m : MoverNo) : Keeps s (s.emergencyStop m) :=
  Keeps.ite (fun _ => enterStopping_keeps s m) fun _ => .refl s

theorem enterFault_keeps (s : State) (m : MoverNo) (k : FaultKind) (ks : List FaultKind) : Keeps s (s.enterFault m k ks) := by
  unfold State.enterFault
  refine Keeps.trans ?_ (raise_keeps _ _)
  refine Keeps.trans ?_ (openingTests_keeps _ _)
  refine Keeps.trans ?_ (startTstop_keeps _ _)
  exact (abandonWork_keeps s m _ _).trans (enter_keeps _ m _ _ (fun _ => rfl) (fun _ => rfl) fun _ => rfl)

theorem enterStopped_keeps (s : State) (m : MoverNo) : Keeps s (s.enterStopped m) := by
  unfold State.enterStopped
  refine Keeps.trans (Keeps.trans ((cancelTstop_keeps s m).trans ?_) (initPositionAtRest_keeps _ _)) (openingTests_keeps _ _)
  exact enter_keeps _ m _ _ (fun _ => rfl) (fun _ => rfl) fun _ => rfl

theorem completeFaultStop_keeps (s : State) (m : MoverNo) : Keeps s (s.completeFaultStop m) := by
  unfold State.completeFaultStop
  refine Keeps.trans ((cancelTstop_keeps s m).trans ?_) (writeImages_keeps _ _)
  exact modMv_keeps' _ m _ (fun _ => rfl) (fun _ => rfl) fun _ => rfl

theorem finishStop_keeps (s : State) (m : MoverNo) : Keeps s (s.finishStop m) :=
  ((logExecuting_keeps s m _ _).trans (flushChain_keeps _ _)).trans (enterIdle_keeps _ _)

end Sys2Proof.Machine
end

