-- ==== Sys2Proof/Laws/KeepsUpdate.lean ====
section
/-! SUPPORT. What the mover update, the profile step and the Weather Monitor keep. -/

namespace Sys2Proof.Machine

/-! ## Trim and profile -/

theorem formTrim_keeps (s : State) (m : MoverNo) : Keeps s (s.formTrim m) := by
  unfold State.formTrim
  split
  · exact .refl s
  · exact modMv_keeps' s m _ (fun _ => rfl) (fun _ => rfl) fun _ => rfl

/-- A change of the execution part leaves the mover's slots, chain and record. -/
theorem modPart_frame (x : Mover) (f : ExecPart → ExecPart) :
    (x.modPart f).slots = x.slots ∧ (x.modPart f).chain = x.chain ∧ (x.modPart f).record = x.record := by
  refine ⟨?_, rfl, rfl⟩
  simp [Mover.modPart, Mover.slots, Option.map_map, Function.comp_def]

theorem modPart_keeps (s : State) (m : MoverNo) (f : ExecPart → ExecPart) : Keeps s (s.modMv m fun x => x.modPart f) :=
  modMv_keeps s m _ (modPart_frame _ f).1 rfl rfl

theorem arrive_keeps (s : State) (m : MoverNo) (d : Dir) (f : ProfileFigures) : Keeps s (s.arrive m d f) := by
  unfold State.arrive
  refine Keeps.ite (fun _ => ?_) fun _ => Keeps.ite (fun _ => ?_) fun _ => ?_
  · exact modMv_keeps' _ m _ (fun _ => rfl) (fun _ => rfl) fun _ => rfl
  · refine Keeps.trans ?_ (completeSegment_keeps _ _ _)
    exact modMv_keeps' _ m _ (fun _ => rfl) (fun _ => rfl) fun _ => rfl
  · refine Keeps.trans (Keeps.trans ?_ (pauseSegmentTimers_keeps _ _)) (holdWithBrakes_keeps _ _)
    exact modMv_keeps' _ m _ (fun _ => rfl) (fun _ => rfl) fun _ => rfl

theorem profileRunning_keeps (s : State) (m : MoverNo) : Keeps s (s.profileRunning m) := by
  unfold State.profileRunning
  split
  · exact .refl s
  · split
    · exact (modPart_keeps s m _).trans (arrive_keeps _ _ _ _)
    · exact .refl s

/-- The holding step writes none of chain, executing place and record. -/
theorem holdingStep_frame (s : State) (m : MoverNo) :
    (s.holdingStep m).chain = (s.mv m).chain ∧ (s.holdingStep m).exec = (s.mv m).exec ∧
      (s.holdingStep m).record = (s.mv m).record := by
  unfold State.holdingStep
  dsimp only
  split
  · exact ⟨rfl, rfl, rfl⟩
  · split <;> exact ⟨rfl, rfl, rfl⟩

theorem profileStep_keeps (s : State) (m : MoverNo) : Keeps s (s.profileStep m) := by
  unfold State.profileStep
  split
  · exact profileRunning_keeps s m
  · refine Keeps.ite (fun _ => .refl s) fun _ => ?_
    obtain ⟨hc, he, hr⟩ := holdingStep_frame s m
    have h : Keeps s (s.setMv m (s.holdingStep m)) :=
      modMv_keeps s m (fun _ => s.holdingStep m) (by simp [Mover.slots, hc, he]) hc hr
    exact Keeps.ite (fun _ => h.trans (holdWithBrakes_keeps _ _)) fun _ => h
  · exact .refl s

/-! ## The stages of the mover update -/

theorem positionStage_keeps (s : State) (m : MoverNo) : Keeps s (s.positionStage m) := by
  unfold State.positionStage
  refine Keeps.ite (fun _ => .refl s) fun _ => ?_
  split
  · exact .refl s
  · exact ((initPosition_keeps s m _).trans (resetOpenRules_keeps _ _)).trans (openingTests_keeps _ _)

theorem faultStage_keeps (s : State) (m : MoverNo) : Keeps s (s.faultStage m) := by
  unfold State.faultStage
  split
  · exact .refl s
  · refine Keeps.ite (fun _ => ?_) fun _ => enterFault_keeps s m _ _
    exact modMv_keeps' s m _ (fun _ => rfl) (fun _ => rfl) fun _ => rfl

theorem confirmUnlocking_keeps (s : State) (m : MoverNo) : Keeps s (s.confirmUnlocking m) :=
  Keeps.ite (fun _ => (cancelTlock_keeps s m).trans (enterReleasing_keeps _ _)) fun _ => .refl s

theorem confirmReleasing_keeps (s : State) (m : MoverNo) : Keeps s (s.confirmReleasing m) :=
  Keeps.ite (fun _ => (cancelTbrk_keeps s m).trans (runningEntry_keeps _ _)) fun _ => .refl s

theorem confirmHolding_keeps (s : State) (m : MoverNo) : Keeps s (s.confirmHolding m) := by
  unfold State.confirmHolding
  refine Keeps.ite (fun _ => ?_) fun _ => .refl s
  have h := (cancelTbrk_keeps s m).trans (releaseGrant_keeps _ m)
  exact Keeps.ite (fun _ => h.trans (finishStop_keeps _ _)) fun _ => h.trans (enterHeld_keeps _ _)

theorem confirmEnding_keeps (s : State) (m : MoverNo) : Keeps s (s.confirmEnding m) := by
  unfold State.confirmEnding
  dsimp only
  generalize ((s.mv m).endBrakeSeen || s.brakesApplied m) = b
  generalize ((s.mv m).endLockSeen || !(s.mv m).endLock || s.lockReport m == some .engaged) = l
  have h1 : Keeps s (if b = true then s.cancelTbrk m else s) :=
    Keeps.ite (fun _ => cancelTbrk_keeps s m) fun _ => .refl s
  generalize (if b = true then s.cancelTbrk m else s) = t at h1
  have h2 : Keeps t (if l = true then t.cancelTlock m else t) :=
    Keeps.ite (fun _ => cancelTlock_keeps t m) fun _ => .refl t
  generalize (if l = true then t.cancelTlock m else t) = u at h2
  have h3 : Keeps u (u.modMv m fun x => { x with endBrakeSeen := b, endLockSeen := l }) :=
    modMv_keeps' u m _ (fun _ => rfl) (fun _ => rfl) fun _ => rfl
  have h := (h1.trans h2).trans h3
  exact Keeps.ite (fun _ => h.trans (enterIdle_keeps _ _)) fun _ => h

theorem confirmStopping_keeps (s : State) (m : MoverNo) : Keeps s (s.confirmStopping m) := by
  unfold State.confirmStopping
  dsimp only
  generalize ((s.mv m).brakeOrdered || s.tracksReport m fun d _ => d == .ready) = b
  have h : Keeps s ((s.modMv m fun x => { x with brakeOrdered := b }).writeImages m) :=
    by
      refine Keeps.trans ?_ (writeImages_keeps _ _)
      exact modMv_keeps' s m _ (fun _ => rfl) (fun _ => rfl) fun _ => rfl
  exact Keeps.ite (fun _ => h.trans (enterStopped_keeps _ _)) fun _ => h

theorem confirmFaultStop_keeps (s : State) (m : MoverNo) : Keeps s (s.confirmFaultStop m) := by
  unfold State.confirmFaultStop
  refine Keeps.ite (fun _ => .refl s) fun _ => ?_
  dsimp only
  generalize ((s.mv m).brakeOrdered || s.tracksReport m fun d _ => d.countsStopped) = b
  have h : Keeps s ((s.modMv m fun x => { x with brakeOrdered := b }).writeImages m) :=
    by
      refine Keeps.trans ?_ (writeImages_keeps _ _)
      exact modMv_keeps' s m _ (fun _ => rfl) (fun _ => rfl) fun _ => rfl
  exact Keeps.ite (fun _ => h.trans (completeFaultStop_keeps _ _)) fun _ => h

theorem confirmStage_keeps (s : State) (m : MoverNo) : Keeps s (s.confirmStage m) := by
  unfold State.confirmStage
  split
  · exact confirmUnlocking_keeps s m
  · exact confirmReleasing_keeps s m
  · exact Keeps.ite (fun _ => confirmHolding_keeps s m) fun _ => .refl s
  · exact confirmEnding_keeps s m
  · exact confirmStopping_keeps s m
  · exact confirmFaultStop_keeps s m
  · exact .refl s

theorem skewWarning_keeps (s : State) (m : MoverNo) (skew : Int) : Keeps s (s.skewWarning m skew) := by
  unfold State.skewWarning
  refine Keeps.ite (fun _ => Keeps.trans ?_ (raise_keeps _ _)) fun _ => Keeps.ite (fun _ => ?_) fun _ => .refl s
  · exact modMv_keeps' s m _ (fun _ => rfl) (fun _ => rfl) fun _ => rfl
  · exact modMv_keeps' s m _ (fun _ => rfl) (fun _ => rfl) fun _ => rfl

/-- What stage 5 leaves of a mover with a measured skew. -/
theorem superviseStage_keeps (s : State) (m : MoverNo) (p : Int) : Keeps s (s.superviseStage m p).1 := by
  unfold State.superviseStage
  dsimp only
  split
  all_goals
    first
    | exact .refl s
    | split
      · exact enterFault_keeps s m _ _
      · split
        · exact enterFault_keeps s m _ _
        · split
          · refine Keeps.trans ?_ (completeSegment_keeps _ _ _)
            exact (skewWarning_keeps s m _).trans (modPart_keeps _ m _)
          · exact (skewWarning_keeps s m _).trans (modPart_keeps _ m _)

theorem clearanceStage_keeps (s : State) (m : MoverNo) : Keeps s (s.clearanceStage m) := by
  unfold State.clearanceStage
  split
  · exact ((Keeps.foldl (fun s c => leaveRule_keeps s c m) _ s).trans (requestPath_keeps _ _ _)).trans
      (requestPath_keeps _ _ _)
  · exact (Keeps.foldl (fun s c => leaveRule_keeps s c m) _ s).trans (removeReasons_keeps _ _ _)
  · exact .refl s

theorem moverUpdate_keeps (s : State) (m : MoverNo) : Keeps s (s.moverUpdate m) := by
  unfold State.moverUpdate
  dsimp only
  have h1 := (formTrim_keeps s m).trans (positionStage_keeps _ m)
  generalize (s.formTrim m).positionStage m = t at h1
  have h2 := h1.trans (faultStage_keeps t m)
  refine Keeps.ite (fun _ => h2.trans (writeImages_keeps _ _)) fun _ => ?_
  have h3 := (h2.trans (confirmStage_keeps _ m)).trans (superviseStage_keeps _ m (s.mv m).p)
  refine Keeps.ite (fun _ => h3.trans (writeImages_keeps _ _)) fun _ => ?_
  have h4 := h3.trans (clearanceStage_keeps _ m)
  refine Keeps.trans ?_ (writeImages_keeps _ _)
  exact Keeps.ite (fun _ => h4) fun _ => h4.trans (profileStep_keeps _ _)

/-! ## The Weather Monitor -/

theorem formDerate_keeps (s : State) : Keeps s s.formDerate := by
  unfold State.formDerate
  split <;> exact wx_keeps s _

theorem formFigure_keeps (s : State) : Keeps s s.formFigure := wx_keeps s _

theorem postEach_keeps (s : State) (ms : List MoverNo) (f : MoverNo → Instr) : Keeps s (s.postEach ms f) :=
  Keeps.foldl (fun s m => post_keeps s (f m)) ms s

theorem engageHold_keeps (s : State) (c : WindCause) : Keeps s (s.engageHold c) :=
  ((wx_keeps s _).trans (raise_keeps _ _)).trans (postEach_keeps _ _ _)

theorem reengageHold_keeps (s : State) : Keeps s s.reengageHold := (unpost_keeps s _).trans (wx_keeps _ _)

theorem engageTest_keeps (s : State) (t : WxThresholds) : Keeps s (s.engageTest t) := by
  unfold State.engageTest
  split
  · exact engageHold_keeps s _
  · exact .refl s

theorem holdAtReport_keeps (s : State) (t : WxThresholds) : Keeps s (s.holdAtReport t) := by
  unfold State.holdAtReport
  split
  · exact engageTest_keeps s t
  · exact Keeps.ite (fun _ => wx_keeps s _) fun _ => .refl s
  · exact Keeps.ite (fun _ => .refl s) fun _ => reengageHold_keeps s

theorem holdAtLoss_keeps (s : State) (t : WxThresholds) : Keeps s (s.holdAtLoss t) := by
  unfold State.holdAtLoss
  split
  · exact engageTest_keeps s t
  · exact .refl s
  · exact Keeps.ite (fun _ => reengageHold_keeps s) fun _ => .refl s

theorem holdAtSetwx_keeps (s : State) (t : WxThresholds) : Keeps s (s.holdAtSetwx t) := by
  unfold State.holdAtSetwx
  split
  · exact engageTest_keeps s t
  · exact .refl s
  · exact Keeps.ite (fun _ => .refl s) fun _ => reengageHold_keeps s

theorem formRain_keeps (s : State) : Keeps s s.formRain := by
  unfold State.formRain
  dsimp only
  refine Keeps.ite (fun _ => ?_) fun _ => Keeps.ite (fun _ => (wx_keeps s _).trans (raise_keeps _ _)) fun _ => .refl s
  exact ((wx_keeps s _).trans (raise_keeps _ _)).trans (postEach_keeps _ _ _)

theorem reportArrival_keeps (s : State) (st : StationNo) : Keeps s (s.reportArrival st) := by
  unfold State.reportArrival
  split
  · refine Keeps.ite (fun _ => ?_) fun _ => .refl s
    exact (((formFigure_keeps s).trans (holdAtReport_keeps _ _)).trans (formDerate_keeps _)).trans (formRain_keeps _)
  · exact .refl s

theorem sourceLoss_keeps (s : State) (st : StationNo) : Keeps s (s.sourceLoss st) := by
  unfold State.sourceLoss
  split
  · refine Keeps.ite (fun _ => ?_) fun _ => .refl s
    refine Keeps.trans (Keeps.trans ?_ (holdAtLoss_keeps _ _)) (formDerate_keeps _)
    exact Keeps.ite (fun _ => (formFigure_keeps s).trans (raise_keeps _ _)) fun _ => formFigure_keeps s
  · exact .refl s

theorem releaseExpiry_keeps (s : State) : Keeps s s.releaseExpiry := by
  unfold State.releaseExpiry
  refine Keeps.ite (fun _ => ?_) fun _ => .refl s
  exact (((wx_keeps s _).trans (formDerate_keeps _)).trans (raise_keeps _ _)).trans (postEach_keeps _ _ _)

theorem fireTrigger_keeps (s : State) (m : MoverNo) : Keeps s (s.fireTrigger m) := by
  unfold State.fireTrigger
  refine Keeps.ite (fun _ => .refl s) fun _ => ?_
  split
  all_goals first | exact launch_keeps s m | exact modTrig_keeps s m _ | exact .refl s

end Sys2Proof.Machine
end

