-- ==== Sys2Proof/Laws/Frames.lean ====
section
/-! SUPPORT. What the motion of the movers leaves alone: `MotionFrame s t` (Safety.lean) is shown once for every operation of the movers,
the pool, the arbiter and the Clearance Table. It composes, so every command that moves movers has it. -/

namespace Sys2Proof.Machine

theorem MotionFrame.refl (s : State) : MotionFrame s s :=
  ⟨rfl, rfl, rfl, rfl, rfl, rfl, fun _ => rfl, fun _ => rfl, fun _ => rfl, fun _ => rfl, rfl, rfl, rfl, List.prefix_rfl, rfl,
    fun _ => rfl, fun _ => List.prefix_rfl, List.Sublist.refl _, rfl⟩

theorem MotionFrame.trans {s t u : State} (h : MotionFrame s t) (k : MotionFrame t u) : MotionFrame s u where
  timebase := k.timebase.trans h.timebase
  pins := k.pins.trans h.pins
  lineA := k.lineA.trans h.lineA
  lineB := k.lineB.trans h.lineB
  serviceId := k.serviceId.trans h.serviceId
  link := k.link.trans h.link
  records m := (k.records m).trans (h.records m)
  stations st := (k.stations st).trans (h.stations st)
  rules c := (k.rules c).trans (h.rules c)
  triggers m := (k.triggers m).trans (h.triggers m)
  weather := k.weather.trans h.weather
  budget := k.budget.trans h.budget
  mode := k.mode.trans h.mode
  log := h.log.trans k.log
  threshold := k.threshold.trans h.threshold
  enabled c := (k.enabled c).trans (h.enabled c)
  notices c := (h.notices c).trans (k.notices c)
  posted := k.posted.trans h.posted
  pending := k.pending.trans h.pending

theorem MotionFrame.foldl {α : Type} {f : State → α → State} (hf : ∀ s a, MotionFrame s (f s a)) (l : List α) (s : State) :
    MotionFrame s (l.foldl f s) := by
  induction l generalizing s with
  | nil => exact .refl s
  | cons a l ih => exact (hf s a).trans (ih _)

theorem MotionFrame.ite {c : Prop} [Decidable c] {s t u : State} (h : c → MotionFrame s t) (k : ¬c → MotionFrame s u) :
    MotionFrame s (if c then t else u) := by
  split
  · exact h ‹_›
  · exact k ‹_›

/-! ## The primitive updates -/

/-- A mover changed in anything but its record. -/
theorem modMv_motion (s : State) (m : MoverNo) (f : Mover → Mover) (h : (f (s.mv m)).record = (s.mv m).record) :
    MotionFrame s (s.modMv m f) :=
  { MotionFrame.refl s with
    records := fun m' => by
      by_cases e : m' = m
      · subst e; rw [State.modMv_mv, h]
      · rw [State.modMv_mv_ne s e] }

theorem image_motion (s : State) (st : StationNo) (f : Station → Station) (h : ∀ x, (f x).unimaged = x.unimaged) :
    MotionFrame s (s.modStn st f) :=
  { MotionFrame.refl s with
    stations := fun st' => by
      by_cases e : st' = st
      · subst e
        rw [State.modStn_stn, Option.map_map]
        congr 1
        exact funext h
      · rw [State.modStn_stn_ne s e] }

theorem unpost_motion (s : State) (i : Instr) : MotionFrame s (s.unpost i) :=
  { MotionFrame.refl s with posted := List.erase_sublist }

/-- A class queue that takes a notice keeps its enable, and what stands in it. -/
theorem ClassQueue.accept_enabled (q : ClassQueue) (x : Notice) : (q.accept x).enabled = q.enabled := by
  unfold ClassQueue.accept
  split
  · rfl
  · split <;> rfl

theorem ClassQueue.accept_prefix (q : ClassQueue) (x : Notice) : q.queue <+: (q.accept x).queue := by
  unfold ClassQueue.accept
  split
  · exact List.prefix_rfl
  · split
    · exact List.prefix_append _ _
    · exact List.prefix_rfl

/-- The queue of a class after one class's queue is replaced. -/
theorem NoticeUnit.put_get (n : NoticeUnit) (c d : NoticeClass) (q : ClassQueue) :
    (n.put c q).get d = if d = c then q else n.get d := by
  cases c <;> cases d <;> rfl

theorem raise_motion (s : State) (k : NoticeKind) : MotionFrame s (s.raise k) :=
  { MotionFrame.refl s with
    threshold := by
      show (s.notices.put k.cls _).logThreshold = _
      cases k.cls <;> rfl
    enabled := fun c => by
      show ((s.notices.put k.cls _).get c).enabled = _
      rw [NoticeUnit.put_get]
      split
      · next h => rw [ClassQueue.accept_enabled, h]
      · rfl
    notices := fun c => by
      show _ <+: ((s.notices.put k.cls _).get c).queue
      rw [NoticeUnit.put_get]
      split
      · next h => rw [h]; exact ClassQueue.accept_prefix _ _
      · exact List.prefix_rfl }

theorem setGrant_motion (s : State) (m : MoverNo) (g : Nat) : MotionFrame s (s.setGrant m g) := { MotionFrame.refl s with }

theorem waiting_motion (s : State) (l : List PowerRequest) (n : MoverNo) :
    MotionFrame s { s with power := { s.power with waiting := l, pointer := n } } := { MotionFrame.refl s with }

theorem modRule_motion (s : State) (c : RuleNo) (f : Rule → Rule) (h : ∀ r, (f r).definition = r.definition) :
    MotionFrame s (s.modRule c f) :=
  { MotionFrame.refl s with
    rules := fun c' => by
      unfold State.modRule
      by_cases e : c' = c
      · subst e
        rw [State.setRule_rule, Option.map_map]
        congr 1
        exact funext h
      · rw [State.setRule_rule_ne s e] }

theorem setRule_motion (s : State) (c : RuleNo) (r t : Rule) (hr : s.rule c = some r) (h : t.definition = r.definition) :
    MotionFrame s (s.setRule c (some t)) :=
  { MotionFrame.refl s with
    rules := fun c' => by
      by_cases e : c' = c
      · subst e
        rw [State.setRule_rule, hr]
        simp [h]
      · rw [State.setRule_rule_ne s e] }

theorem modTrig_motion (s : State) (m : MoverNo) (f : Trigger → Trigger) (h : ∀ x, (f x).settings = x.settings) :
    MotionFrame s (s.modTrig m f) :=
  { MotionFrame.refl s with
    triggers := fun m' => by
      by_cases e : m' = m
      · subst e; rw [State.modTrig_trig, h]
      · rw [State.modTrig_trig_ne s e] }

theorem pool_motion (s : State) (p : Pool) (h : s.pool.log <+: p.log) : MotionFrame s { s with pool := p } :=
  { MotionFrame.refl s with log := h }

/-! ## Ops, pool, arbiter and table -/

theorem writeImages_motion (s : State) (m : MoverNo) : MotionFrame s (s.writeImages m) := by
  unfold State.writeImages
  dsimp only
  split
  · exact (MotionFrame.foldl (fun s t => image_motion s _ _ (by intros; rfl)) _ s).trans (image_motion _ _ _ (by intros; rfl))
  · exact MotionFrame.foldl (fun s t => image_motion s _ _ (by intros; rfl)) _ s

theorem enter_motion (s : State) (m : MoverNo) (st : MoverState) (f : Mover → Mover) (h : ∀ x, (f x).record = x.record) :
    MotionFrame s (s.enter m st f) :=
  (modMv_motion s m (fun x => { f x with state := st }) (h _)).trans (writeImages_motion _ _)

theorem startTlock_motion (s : State) (m : MoverNo) : MotionFrame s (s.startTlock m) := (unpost_motion s _).trans (modMv_motion _ _ _ (by rfl))

theorem cancelTlock_motion (s : State) (m : MoverNo) : MotionFrame s (s.cancelTlock m) := (unpost_motion s _).trans (modMv_motion _ _ _ (by rfl))

theorem startTbrk_motion (s : State) (m : MoverNo) : MotionFrame s (s.startTbrk m) := (unpost_motion s _).trans (modMv_motion _ _ _ (by rfl))

theorem cancelTbrk_motion (s : State) (m : MoverNo) : MotionFrame s (s.cancelTbrk m) := (unpost_motion s _).trans (modMv_motion _ _ _ (by rfl))

theorem startTstop_motion (s : State) (m : MoverNo) : MotionFrame s (s.startTstop m) := (unpost_motion s _).trans (modMv_motion _ _ _ (by rfl))

theorem cancelTstop_motion (s : State) (m : MoverNo) : MotionFrame s (s.cancelTstop m) := (unpost_motion s _).trans (modMv_motion _ _ _ (by rfl))

theorem cancelAlign_motion (s : State) (m : MoverNo) : MotionFrame s (s.cancelAlign m) := (unpost_motion s _).trans (modMv_motion _ _ _ (by rfl))

theorem pauseSegmentTimers_motion (s : State) (m : MoverNo) : MotionFrame s (s.pauseSegmentTimers m) :=
  (unpost_motion s _).trans (unpost_motion _ _)

theorem placeSegment_motion (s : State) (m : MoverNo) (mo : Motion) (o : Origin) : MotionFrame s (s.placeSegment m mo o) := by
  unfold State.placeSegment
  split
  · exact .refl s
  · exact (pool_motion s _ (by exact List.prefix_rfl)).trans (modMv_motion _ _ _ (by rfl))

theorem take_motion (s : State) (m : MoverNo) : MotionFrame s (s.take m) := by
  unfold State.take
  split
  · exact .refl s
  · exact .refl s
  · dsimp only
    exact MotionFrame.ite (fun _ => (modMv_motion s m _ (by rfl)).trans (raise_motion _ _)) fun _ => modMv_motion s m _ (by rfl)

theorem thresholdTest_motion (s : State) : MotionFrame s s.thresholdTest := by
  unfold State.thresholdTest
  dsimp only
  refine MotionFrame.ite (fun _ => (pool_motion s _ (by exact List.prefix_rfl)).trans (raise_motion _ _)) fun _ => MotionFrame.ite (fun _ => ?_) fun _ => .refl s
  exact pool_motion s _ (by exact List.prefix_rfl)

theorem appendLog_motion (s : State) (r : LogRecord) : MotionFrame s (s.appendLog r) := by
  unfold State.appendLog
  exact (pool_motion s { s.pool with log := s.pool.log ++ [r] } (List.prefix_append _ _)).trans (thresholdTest_motion _)

theorem logExecuting_motion (s : State) (m : MoverNo) (o : SegOutcome) (k : Option FaultKind) :
    MotionFrame s (s.logExecuting m o k) := by
  unfold State.logExecuting
  split
  · exact .refl s
  · exact (((unpost_motion s _).trans (cancelAlign_motion _ _)).trans (modMv_motion _ _ _ (by rfl))).trans (appendLog_motion _ _)

theorem flushChain_motion (s : State) (m : MoverNo) : MotionFrame s (s.flushChain m) :=
  MotionFrame.foldl (fun s _ => (modMv_motion s m _ (by rfl)).trans (appendLog_motion _ _)) _ s

theorem enterReleasing_motion (s : State) (m : MoverNo) : MotionFrame s (s.enterReleasing m) :=
  (enter_motion s m _ _ (by intros; rfl)).trans (startTbrk_motion _ _)

theorem enterUnlocking_motion (s : State) (m : MoverNo) : MotionFrame s (s.enterUnlocking m) :=
  (enter_motion s m _ _ (by intros; rfl)).trans (startTlock_motion _ _)

theorem unlock_motion (s : State) (m : MoverNo) : MotionFrame s (s.unlock m) :=
  MotionFrame.ite (fun _ => enterReleasing_motion s m) fun _ => enterUnlocking_motion s m

theorem grantEntry_motion (s : State) (e : PowerRequest) : MotionFrame s (s.grantEntry e) := by
  unfold State.grantEntry
  exact ((setGrant_motion s e.mover _).trans (waiting_motion _ _ _)).trans (unlock_motion _ _)

theorem arbitrateN_motion (n : Nat) : ∀ s : State, MotionFrame s (State.arbitrateN n s) := by
  induction n with
  | zero => exact .refl
  | succ n ih =>
    intro s
    unfold State.arbitrateN
    split
    · exact .refl s
    · exact (grantEntry_motion s _).trans (ih _)

theorem arbitrate_motion (s : State) : MotionFrame s s.arbitrate := arbitrateN_motion _ s

theorem requestArrival_motion (s : State) (m : MoverNo) : MotionFrame s (s.requestArrival m) := by
  unfold State.requestArrival
  have h := (waiting_motion s (s.power.waiting ++ [s.requestOf m]) s.power.pointer).trans (arbitrate_motion _)
  exact MotionFrame.ite (fun _ => h.trans (raise_motion _ _)) fun _ => h

theorem enterAwaitPower_motion (s : State) (m : MoverNo) : MotionFrame s (s.enterAwaitPower m) :=
  (enter_motion s m _ id (by intros; rfl)).trans (requestArrival_motion _ _)

theorem withdrawRequest_motion (s : State) (m : MoverNo) : MotionFrame s (s.withdrawRequest m) :=
  (waiting_motion s _ s.power.pointer).trans (arbitrate_motion _)

theorem releaseGrant_motion (s : State) (m : MoverNo) : MotionFrame s (s.releaseGrant m) :=
  (setGrant_motion s m 0).trans (arbitrate_motion _)

theorem givePowerBack_motion (s : State) (m : MoverNo) : MotionFrame s (s.givePowerBack m) := by
  unfold State.givePowerBack
  split
  · exact withdrawRequest_motion s m
  all_goals first | exact releaseGrant_motion s m | exact .refl s

theorem adjustGrant_motion (s : State) (m : MoverNo) : MotionFrame s (s.adjustGrant m) := by
  unfold State.adjustGrant
  exact MotionFrame.ite (fun _ => (setGrant_motion s m _).trans (arbitrate_motion _)) fun _ => setGrant_motion s m _

theorem joinRule_motion (s : State) (c : RuleNo) (m : MoverNo) : MotionFrame s (s.joinRule c m) := by
  unfold State.joinRule
  split
  · exact .refl s
  · rename_i r hr
    exact MotionFrame.ite (fun _ => setRule_motion s c r _ hr (by rfl)) fun _ =>
      (setRule_motion s c r _ hr (by rfl)).trans (raise_motion _ _)

theorem requestRule_motion (s : State) (c : RuleNo) (m : MoverNo) : MotionFrame s (s.requestRule c m) := by
  unfold State.requestRule
  split
  · exact .refl s
  · rename_i r hr
    split
    · exact setRule_motion s c r _ hr (by rfl)
    · exact joinRule_motion s c m

theorem requestPath_motion (s : State) (m : MoverNo) (p : Option Path) : MotionFrame s (s.requestPath m p) :=
  MotionFrame.foldl (fun s c => requestRule_motion s c m) _ s

theorem leaveRule_motion (s : State) (c : RuleNo) (m : MoverNo) : MotionFrame s (s.leaveRule c m) :=
  modRule_motion s c _ (by intros; rfl)

theorem leaveLists_motion (s : State) (m : MoverNo) : MotionFrame s (s.leaveLists m) :=
  MotionFrame.foldl (fun s c => leaveRule_motion s c m) _ s

theorem resetOpenRules_motion (s : State) (m : MoverNo) : MotionFrame s (s.resetOpenRules m) := by
  refine MotionFrame.foldl (fun s c => modRule_motion s c _ fun r => ?_) _ s
  split
  · rfl
  · split
    · rfl
    · split <;> rfl

/-! ## The Mover Sequencers -/

theorem holdWithBrakes_motion (s : State) (m : MoverNo) : MotionFrame s (s.holdWithBrakes m) :=
  (enter_motion s m _ _ (by intros; rfl)).trans (startTbrk_motion _ _)

theorem holdMoving_motion (s : State) (m : MoverNo) : MotionFrame s (s.holdMoving m) :=
  (pauseSegmentTimers_motion s m).trans (enter_motion _ m _ _ (by intros; rfl))

theorem beginSegment_motion (s : State) (m : MoverNo) : MotionFrame s (s.beginSegment m) := by
  unfold State.beginSegment
  refine modMv_motion s m _ ?_
  split
  · rfl
  · dsimp only
    split
    · exact (alignSetup_frame _).2.2
    · rfl

theorem refuseEntry_motion (s : State) (m : MoverNo) (cs : List RuleNo) : MotionFrame s (s.refuseEntry m cs) := by
  unfold State.refuseEntry
  have h := (MotionFrame.foldl (fun s c => joinRule_motion s c m) cs s).trans
    (modMv_motion _ m (fun x => { x with holdSet := x.holdSet.add (.clearance cs) }) rfl)
  exact MotionFrame.ite (fun _ => h.trans (holdWithBrakes_motion _ _)) fun _ => h

section Completions

variable {cp : Completion} (hcp : ∀ m o s, MotionFrame s (cp m o s))
include hcp

theorem runningEntryWith_motion (s : State) (m : MoverNo) : MotionFrame s (s.runningEntryWith cp m) := by
  unfold State.runningEntryWith
  refine MotionFrame.ite (fun _ => refuseEntry_motion s m _) fun _ => ?_
  dsimp only
  have h1 := MotionFrame.foldl (fun s c => requestRule_motion s c m) (s.unheldNeeds m (s.mv m).execPath) s
  refine h1.trans ?_
  generalize (s.unheldNeeds m (s.mv m).execPath).foldl (fun s c => s.requestRule c m) s = t
  have h2 : MotionFrame t (t.modMv m fun x =>
      { x with
        state := .running
        brakeOrdered := false
        exec := x.exec.map fun e => { e with part := { e.part with stopMark := false } } }) :=
    modMv_motion t m _ (by rfl)
  refine h2.trans ?_
  generalize t.modMv m _ = u
  have h3 : MotionFrame u (if (!(t.mv m).hasBegun) = true then u.beginSegment m else u) :=
    MotionFrame.ite (fun _ => beginSegment_motion u m) fun _ => .refl u
  refine h3.trans ?_
  generalize (if (!(t.mv m).hasBegun) = true then u.beginSegment m else u) = v
  have h4 := (requestPath_motion v m (v.mv m).lookaheadPath).trans (writeImages_motion _ m)
  exact MotionFrame.ite (fun _ => h4.trans (hcp _ _ _)) fun _ => h4

theorem wakeWith_motion (s : State) (m : MoverNo) : MotionFrame s (s.wakeWith cp m) := by
  unfold State.wakeWith
  dsimp only
  split
  · refine MotionFrame.ite (fun _ => .refl s) fun _ => MotionFrame.ite (fun _ => runningEntryWith_motion hcp s m) fun _ => ?_
    exact (cancelTbrk_motion s m).trans (MotionFrame.ite (fun _ => enterReleasing_motion _ _) fun _ => unlock_motion _ _)
  · exact enterAwaitPower_motion s m
  · exact .refl s

theorem removeReasonsWith_motion (s : State) (m : MoverNo) (rs : List HoldReason) : MotionFrame s (s.removeReasonsWith cp m rs) := by
  unfold State.removeReasonsWith
  have h := modMv_motion s m (fun x => { x with holdSet := rs.foldl HoldSet.remove (s.mv m).holdSet }) rfl
  exact MotionFrame.ite (fun _ => h.trans (wakeWith_motion hcp _ _)) fun _ => h

theorem openingTestWith_motion (m : MoverNo) (s : State) (c : RuleNo) : MotionFrame s (State.openingTestWith cp m s c) := by
  unfold State.openingTestWith
  split
  · exact .refl s
  · rename_i r hr
    split
    · exact .refl s
    · exact (setRule_motion s c _ _ hr (by rfl)).trans (MotionFrame.foldl (fun s w => removeReasonsWith_motion hcp s w _) _ _)

theorem openingTestsWith_motion (s : State) (m : MoverNo) : MotionFrame s (s.openingTestsWith cp m) :=
  MotionFrame.foldl (fun s c => openingTestWith_motion hcp m s c) _ s

end Completions

theorem enterEnding_motion (s : State) (m : MoverNo) (seg : Segment) : MotionFrame s (s.enterEnding m seg) := by
  unfold State.enterEnding
  refine MotionFrame.trans ?_ (raise_motion _ _)
  have h := (((givePowerBack_motion s m).trans (leaveLists_motion _ m)).trans
    (enter_motion _ m .ending
      (fun x =>
        { x with
          holdSet := {}
          unlocked := false
          brakeOrdered := false
          endBrakeSeen := false
          endLockSeen := false
          endLock := seg.lock && x.cfg.lockst.isSome })
      fun _ => rfl)).trans (startTbrk_motion _ m)
  exact MotionFrame.ite (fun _ => h.trans (startTlock_motion _ _)) fun _ => h

theorem switchSegment_motion (s : State) (m : MoverNo) : MotionFrame s (s.switchSegment m) := by
  unfold State.switchSegment
  have h := (((take_motion s m).trans (adjustGrant_motion _ m)).trans (beginSegment_motion _ m)).trans
    (requestPath_motion _ m (((s.take m).adjustGrant m).beginSegment m |>.mv m).execPath)
  refine MotionFrame.ite (fun _ => h.trans ((requestPath_motion _ _ _).trans (writeImages_motion _ _))) fun _ => h.trans ?_
  refine MotionFrame.trans ?_ (holdMoving_motion _ _)
  exact modMv_motion _ m _ (by rfl)

theorem completeN_motion (n : Nat) : ∀ m o s, MotionFrame s (State.completeN n m o s) := by
  induction n with
  | zero => exact fun _ _ s => .refl s
  | succ n ih =>
    intro m o s
    unfold State.completeN
    split
    · exact .refl s
    · refine (logExecuting_motion s m o none).trans ?_
      refine MotionFrame.ite (fun _ => (enterEnding_motion _ _ _).trans (openingTestsWith_motion ih _ _)) fun _ => ?_
      have h := (switchSegment_motion (s.logExecuting m o none) m).trans (openingTestsWith_motion ih _ m)
      exact MotionFrame.ite (fun _ => h.trans (ih _ _ _)) fun _ => h

theorem completeSegment_motion (m : MoverNo) (o : SegOutcome) (s : State) : MotionFrame s (s.completeSegment m o) :=
  completeN_motion _ m o s

theorem runningEntry_motion (s : State) (m : MoverNo) : MotionFrame s (s.runningEntry m) :=
  runningEntryWith_motion (completeN_motion _) s m

theorem removeReasons_motion (s : State) (m : MoverNo) (rs : List HoldReason) : MotionFrame s (s.removeReasons m rs) :=
  removeReasonsWith_motion (completeN_motion _) s m rs

theorem openingTests_motion (s : State) (m : MoverNo) : MotionFrame s (s.openingTests m) :=
  openingTestsWith_motion (completeN_motion _) s m

theorem enterHeld_motion (s : State) (m : MoverNo) : MotionFrame s (s.enterHeld m) := by
  unfold State.enterHeld
  refine MotionFrame.trans (MotionFrame.trans ?_ (raise_motion _ _)) (openingTests_motion _ _)
  exact enter_motion s m _ _ (by intros; rfl)

theorem addReason_motion (s : State) (m : MoverNo) (r : HoldReason) : MotionFrame s (s.addReason m r) := by
  unfold State.addReason
  refine MotionFrame.ite (fun _ => .refl s) fun _ => ?_
  refine (modMv_motion s m (fun x => { x with holdSet := (s.mv m).holdSet.add r }) rfl).trans ?_
  split
  · exact (withdrawRequest_motion _ _).trans (enterHeld_motion _ _)
  · exact (cancelTlock_motion _ _).trans (holdWithBrakes_motion _ _)
  · exact holdWithBrakes_motion _ _
  · exact holdMoving_motion _ _
  · exact .refl _

theorem initPosition_motion (s : State) (m : MoverNo) (mean : Int) : MotionFrame s (s.modMv m fun x => x.initPosition mean) :=
  modMv_motion s m _ (by rfl)

theorem initPositionAtRest_motion (s : State) (m : MoverNo) : MotionFrame s (s.initPositionAtRest m) := by
  unfold State.initPositionAtRest
  split
  · exact .refl s
  · exact (initPosition_motion s m _).trans (resetOpenRules_motion _ _)

theorem startTaken_motion (s : State) (m : MoverNo) : MotionFrame s (s.startTaken m) := by
  unfold State.startTaken
  refine MotionFrame.ite (fun _ => MotionFrame.trans ?_ (enterHeld_motion _ _)) fun _ => enterAwaitPower_motion s m
  exact modMv_motion s m _ (by rfl)

/-- A launch places its plan in a chain it has just emptied (R33, R42). -/
theorem launch_motion (s : State) (m : MoverNo) : MotionFrame s (s.launch m) := by
  unfold State.launch
  split
  · exact .refl s
  · split
    · exact raise_motion s _
    · rename_i plan _ _ _
      exact ((((flushChain_motion s m).trans (placeSegment_motion _ m plan .plan)).trans (take_motion _ _)).trans
        (raise_motion _ _)).trans (startTaken_motion _ _)

theorem enterIdle_motion (s : State) (m : MoverNo) : MotionFrame s (s.enterIdle m) := by
  unfold State.enterIdle
  have h := ((leaveLists_motion s m).trans
    (enter_motion _ m .idle
      (fun x =>
        { x with
          holdSet := {}
          unlocked := false
          stopInProgress := false
          brakeOrdered := false
          skewWarn := false })
      fun _ => rfl)).trans (openingTests_motion _ m)
  exact MotionFrame.ite (fun _ => h.trans ((modTrig_motion _ _ _ (by intros; rfl)).trans (launch_motion _ _))) fun _ => h

theorem abandonWork_motion (s : State) (m : MoverNo) (o : SegOutcome) (k : Option FaultKind) :
    MotionFrame s (s.abandonWork m o k) := by
  unfold State.abandonWork
  have h1 := (givePowerBack_motion s m).trans (logExecuting_motion _ m o k)
  have h2 := (h1.trans (modTrig_motion _ m (fun t => { t with pendingFlag := false }) (by intros; rfl))).trans (leaveLists_motion _ m)
  have h3 := (((h2.trans (cancelTlock_motion _ m)).trans (cancelTbrk_motion _ m)).trans (cancelTstop_motion _ m)).trans
    (cancelAlign_motion _ m)
  exact h3.trans (modMv_motion _ m _ (by rfl))

theorem enterStopping_motion (s : State) (m : MoverNo) : MotionFrame s (s.enterStopping m) :=
  ((abandonWork_motion s m _ _).trans (enter_motion _ m _ id (by intros; rfl))).trans
    (startTstop_motion _ _)

theorem emergencyStop_motion (s : State) (m : MoverNo) : MotionFrame s (s.emergencyStop m) :=
  MotionFrame.ite (fun _ => enterStopping_motion s m) fun _ => .refl s

theorem enterFault_motion (s : State) (m : MoverNo) (k : FaultKind) (ks : List FaultKind) : MotionFrame s (s.enterFault m k ks) := by
  unfold State.enterFault
  refine MotionFrame.trans ?_ (raise_motion _ _)
  refine MotionFrame.trans ?_ (openingTests_motion _ _)
  refine MotionFrame.trans ?_ (startTstop_motion _ _)
  exact (abandonWork_motion s m _ _).trans (enter_motion _ m _ _ (by intros; rfl))

theorem enterStopped_motion (s : State) (m : MoverNo) : MotionFrame s (s.enterStopped m) := by
  unfold State.enterStopped
  refine MotionFrame.trans (MotionFrame.trans ((cancelTstop_motion s m).trans ?_) (initPositionAtRest_motion _ _)) (openingTests_motion _ _)
  exact enter_motion _ m _ _ (by intros; rfl)

theorem completeFaultStop_motion (s : State) (m : MoverNo) : MotionFrame s (s.completeFaultStop m) := by
  unfold State.completeFaultStop
  refine MotionFrame.trans ((cancelTstop_motion s m).trans ?_) (writeImages_motion _ _)
  exact modMv_motion _ m _ (by rfl)

theorem finishStop_motion (s : State) (m : MoverNo) : MotionFrame s (s.finishStop m) :=
  ((logExecuting_motion s m _ _).trans (flushChain_motion _ _)).trans (enterIdle_motion _ _)

/-! ## Trim and profile -/

theorem formTrim_motion (s : State) (m : MoverNo) : MotionFrame s (s.formTrim m) := by
  unfold State.formTrim
  split
  · exact .refl s
  · exact modMv_motion s m _ (by rfl)

theorem modPart_motion (s : State) (m : MoverNo) (f : ExecPart → ExecPart) : MotionFrame s (s.modMv m fun x => x.modPart f) :=
  modMv_motion s m _ (by rfl)

theorem arrive_motion (s : State) (m : MoverNo) (d : Dir) (f : ProfileFigures) : MotionFrame s (s.arrive m d f) := by
  unfold State.arrive
  refine MotionFrame.ite (fun _ => ?_) fun _ => MotionFrame.ite (fun _ => ?_) fun _ => ?_
  · exact modMv_motion _ m _ (by rfl)
  · refine MotionFrame.trans ?_ (completeSegment_motion _ _ _)
    exact modMv_motion _ m _ (by rfl)
  · refine MotionFrame.trans (MotionFrame.trans ?_ (pauseSegmentTimers_motion _ _)) (holdWithBrakes_motion _ _)
    exact modMv_motion _ m _ (by rfl)

theorem profileRunning_motion (s : State) (m : MoverNo) : MotionFrame s (s.profileRunning m) := by
  unfold State.profileRunning
  split
  · exact .refl s
  · split
    · exact (modPart_motion s m _).trans (arrive_motion _ _ _ _)
    · exact .refl s

theorem profileStep_motion (s : State) (m : MoverNo) : MotionFrame s (s.profileStep m) := by
  unfold State.profileStep
  split
  · exact profileRunning_motion s m
  · refine MotionFrame.ite (fun _ => .refl s) fun _ => ?_
    have hr := (holdingStep_frame s m).2.2
    have h : MotionFrame s (s.setMv m (s.holdingStep m)) :=
      modMv_motion s m (fun _ => s.holdingStep m) hr
    exact MotionFrame.ite (fun _ => h.trans (holdWithBrakes_motion _ _)) fun _ => h
  · exact .refl s

/-! ## The stages of the mover update -/

theorem positionStage_motion (s : State) (m : MoverNo) : MotionFrame s (s.positionStage m) := by
  unfold State.positionStage
  refine MotionFrame.ite (fun _ => .refl s) fun _ => ?_
  split
  · exact .refl s
  · exact ((initPosition_motion s m _).trans (resetOpenRules_motion _ _)).trans (openingTests_motion _ _)

theorem faultStage_motion (s : State) (m : MoverNo) : MotionFrame s (s.faultStage m) := by
  unfold State.faultStage
  split
  · exact .refl s
  · refine MotionFrame.ite (fun _ => ?_) fun _ => enterFault_motion s m _ _
    exact modMv_motion s m _ (by rfl)

theorem confirmUnlocking_motion (s : State) (m : MoverNo) : MotionFrame s (s.confirmUnlocking m) :=
  MotionFrame.ite (fun _ => (cancelTlock_motion s m).trans (enterReleasing_motion _ _)) fun _ => .refl s

theorem confirmReleasing_motion (s : State) (m : MoverNo) : MotionFrame s (s.confirmReleasing m) :=
  MotionFrame.ite (fun _ => (cancelTbrk_motion s m).trans (runningEntry_motion _ _)) fun _ => .refl s

theorem confirmHolding_motion (s : State) (m : MoverNo) : MotionFrame s (s.confirmHolding m) := by
  unfold State.confirmHolding
  refine MotionFrame.ite (fun _ => ?_) fun _ => .refl s
  have h := (cancelTbrk_motion s m).trans (releaseGrant_motion _ m)
  exact MotionFrame.ite (fun _ => h.trans (finishStop_motion _ _)) fun _ => h.trans (enterHeld_motion _ _)

theorem confirmEnding_motion (s : State) (m : MoverNo) : MotionFrame s (s.confirmEnding m) := by
  unfold State.confirmEnding
  dsimp only
  generalize ((s.mv m).endBrakeSeen || s.brakesApplied m) = b
  generalize ((s.mv m).endLockSeen || !(s.mv m).endLock || s.lockReport m == some .engaged) = l
  have h1 : MotionFrame s (if b = true then s.cancelTbrk m else s) :=
    MotionFrame.ite (fun _ => cancelTbrk_motion s m) fun _ => .refl s
  generalize (if b = true then s.cancelTbrk m else s) = t at h1
  have h2 : MotionFrame t (if l = true then t.cancelTlock m else t) :=
    MotionFrame.ite (fun _ => cancelTlock_motion t m) fun _ => .refl t
  generalize (if l = true then t.cancelTlock m else t) = u at h2
  have h3 : MotionFrame u (u.modMv m fun x => { x with endBrakeSeen := b, endLockSeen := l }) :=
    modMv_motion u m _ (by rfl)
  have h := (h1.trans h2).trans h3
  exact MotionFrame.ite (fun _ => h.trans (enterIdle_motion _ _)) fun _ => h

theorem confirmStopping_motion (s : State) (m : MoverNo) : MotionFrame s (s.confirmStopping m) := by
  unfold State.confirmStopping
  dsimp only
  generalize ((s.mv m).brakeOrdered || s.tracksReport m fun d _ => d == .ready) = b
  have h : MotionFrame s ((s.modMv m fun x => { x with brakeOrdered := b }).writeImages m) :=
    by
      refine MotionFrame.trans ?_ (writeImages_motion _ _)
      exact modMv_motion s m _ (by rfl)
  exact MotionFrame.ite (fun _ => h.trans (enterStopped_motion _ _)) fun _ => h

theorem confirmFaultStop_motion (s : State) (m : MoverNo) : MotionFrame s (s.confirmFaultStop m) := by
  unfold State.confirmFaultStop
  refine MotionFrame.ite (fun _ => .refl s) fun _ => ?_
  dsimp only
  generalize ((s.mv m).brakeOrdered || s.tracksReport m fun d _ => d.countsStopped) = b
  have h : MotionFrame s ((s.modMv m fun x => { x with brakeOrdered := b }).writeImages m) :=
    by
      refine MotionFrame.trans ?_ (writeImages_motion _ _)
      exact modMv_motion s m _ (by rfl)
  exact MotionFrame.ite (fun _ => h.trans (completeFaultStop_motion _ _)) fun _ => h

theorem confirmStage_motion (s : State) (m : MoverNo) : MotionFrame s (s.confirmStage m) := by
  unfold State.confirmStage
  split
  · exact confirmUnlocking_motion s m
  · exact confirmReleasing_motion s m
  · exact MotionFrame.ite (fun _ => confirmHolding_motion s m) fun _ => .refl s
  · exact confirmEnding_motion s m
  · exact confirmStopping_motion s m
  · exact confirmFaultStop_motion s m
  · exact .refl s

theorem skewWarning_motion (s : State) (m : MoverNo) (skew : Int) : MotionFrame s (s.skewWarning m skew) := by
  unfold State.skewWarning
  refine MotionFrame.ite (fun _ => MotionFrame.trans ?_ (raise_motion _ _)) fun _ => MotionFrame.ite (fun _ => ?_) fun _ => .refl s
  · exact modMv_motion s m _ (by rfl)
  · exact modMv_motion s m _ (by rfl)

/-- What stage 5 leaves of a mover with a measured skew. -/
theorem superviseStage_motion (s : State) (m : MoverNo) (p : Int) : MotionFrame s (s.superviseStage m p).1 := by
  unfold State.superviseStage
  dsimp only
  split
  all_goals
    first
    | exact .refl s
    | split
      · exact enterFault_motion s m _ _
      · split
        · exact enterFault_motion s m _ _
        · split
          · refine MotionFrame.trans ?_ (completeSegment_motion _ _ _)
            exact (skewWarning_motion s m _).trans (modPart_motion _ m _)
          · exact (skewWarning_motion s m _).trans (modPart_motion _ m _)

theorem clearanceStage_motion (s : State) (m : MoverNo) : MotionFrame s (s.clearanceStage m) := by
  unfold State.clearanceStage
  split
  · exact ((MotionFrame.foldl (fun s c => leaveRule_motion s c m) _ s).trans (requestPath_motion _ _ _)).trans
      (requestPath_motion _ _ _)
  · exact (MotionFrame.foldl (fun s c => leaveRule_motion s c m) _ s).trans (removeReasons_motion _ _ _)
  · exact .refl s

theorem moverUpdate_motion (s : State) (m : MoverNo) : MotionFrame s (s.moverUpdate m) := by
  unfold State.moverUpdate
  dsimp only
  have h1 := (formTrim_motion s m).trans (positionStage_motion _ m)
  generalize (s.formTrim m).positionStage m = t at h1
  have h2 := h1.trans (faultStage_motion t m)
  refine MotionFrame.ite (fun _ => h2.trans (writeImages_motion _ _)) fun _ => ?_
  have h3 := (h2.trans (confirmStage_motion _ m)).trans (superviseStage_motion _ m (s.mv m).p)
  refine MotionFrame.ite (fun _ => h3.trans (writeImages_motion _ _)) fun _ => ?_
  have h4 := h3.trans (clearanceStage_motion _ m)
  refine MotionFrame.trans ?_ (writeImages_motion _ _)
  exact MotionFrame.ite (fun _ => h4) fun _ => h4.trans (profileStep_motion _ _)

end Sys2Proof.Machine
end

