-- ==== Sys2Proof/Laws/Images.lean ====
section
/-! SUPPORT. What `State.writeImages` does, said once: the stations of the mover take the images of R7's table for its state, and no
other station changes; and what a record carries of the part of a segment. -/

namespace Sys2Proof.Machine

/-- The image that a mover writes into its lock station is that of R7's table. -/
theorem Mover.lockImage_eq_lockOrder (x : Mover) : x.lockImage = x.lockOrder := by
  unfold Mover.lockImage Mover.lockOrder; cases x.state <;> rfl

/-- The image that a mover writes into a track is that of R7's table, with BRAKE as the station's image has it. -/
theorem Mover.driveImage_eq_driveOrder (x : Mover) (i : Nat) (old : Image) :
    x.driveImage i old = x.driveOrder i old.brakeOrder := by
  unfold Mover.driveImage Mover.driveOrder Mover.setpoint Mover.correction Mover.faultStopComplete
  cases x.state <;> cases x.trim <;> cases x.fault <;> rfl

/-- A change of stations one after the other leaves every other station as it was. -/
theorem foldl_modStn_stn_other (f : Nat → Station → Station) {o : StationNo} (l : List (StationNo × Nat)) (s : State)
    (ho : o ∉ l.map Prod.fst) : (l.foldl (fun s t => s.modStn t.1 (f t.2)) s).stn o = s.stn o := by
  induction l generalizing s with
  | nil => rfl
  | cons a l ih =>
    simp only [List.map_cons, List.mem_cons, not_or] at ho
    rw [List.foldl_cons, ih _ ho.2, State.modStn_stn_ne s ho.1]

/-- Of stations changed one after the other, all different, each takes its own change. -/
theorem foldl_modStn_stn (f : Nat → Station → Station) (l : List (StationNo × Nat)) (s : State) (hl : (l.map Prod.fst).Nodup)
    {t : StationNo × Nat} (ht : t ∈ l) : (l.foldl (fun s t => s.modStn t.1 (f t.2)) s).stn t.1 = (s.stn t.1).map (f t.2) := by
  induction l generalizing s with
  | nil => cases ht
  | cons a l ih =>
    simp only [List.map_cons, List.nodup_cons] at hl
    rw [List.foldl_cons]
    rcases List.mem_cons.1 ht with rfl | ht
    · rw [foldl_modStn_stn_other f l _ hl.1, State.modStn_stn]
    · have hne : t.1 ≠ a.1 := fun e => hl.1 (e ▸ List.mem_map_of_mem ht)
      rw [ih _ hl.2 ht, State.modStn_stn_ne s hne]

/-- Writing the images changes no mover. -/
@[simp] theorem State.writeImages_mv (s : State) (m w : MoverNo) : (s.writeImages m).mv w = s.mv w := by
  have fold (f : Nat → Station → Station) (l : List (StationNo × Nat)) (s : State) :
      (l.foldl (fun s t => s.modStn t.1 (f t.2)) s).mv w = s.mv w := by
    induction l generalizing s with
    | nil => rfl
    | cons a l ih => rw [List.foldl_cons, ih]; rfl
  unfold State.writeImages
  dsimp only
  split <;> exact fold (fun i y => { y with image := (s.mv m).driveImage i y.image }) _ s

/-- A mover's tracks, all different and none its lock station, take their images. -/
theorem State.writeImages_track (s : State) (m : MoverNo) (hn : (s.mv m).cfg.tracks.Nodup) {i : Nat} {st : StationNo}
    (hi : (s.mv m).cfg.tracks[i]? = some st) (hl : (s.mv m).cfg.lockst ≠ some st) :
    (s.writeImages m).stn st =
      (s.stn st).map fun y => { y with image := (s.mv m).driveOrder i y.image.brakeOrder } := by
  have h := foldl_modStn_stn (fun i y => { y with image := (s.mv m).driveImage i y.image }) (s.mv m).cfg.tracks.zipIdx s
    (by simpa using hn) (t := (st, i)) (List.mem_zipIdx_iff_getElem?.2 hi)
  simp only [Mover.driveImage_eq_driveOrder] at h
  unfold State.writeImages
  simp only [Mover.driveImage_eq_driveOrder]
  split
  · rename_i l e
    rw [State.modStn_stn_ne _ fun k => hl (by rw [e, k])]; exact h
  · exact h

/-- A mover's lock station, none of its tracks, takes its image. -/
theorem State.writeImages_lock (s : State) (m : MoverNo) {st : StationNo} (hl : (s.mv m).cfg.lockst = some st)
    (ht : st ∉ (s.mv m).cfg.tracks) :
    (s.writeImages m).stn st = (s.stn st).map fun y => { y with image := (s.mv m).lockOrder } := by
  have h := foldl_modStn_stn_other (fun i y => { y with image := (s.mv m).driveImage i y.image }) (s.mv m).cfg.tracks.zipIdx s
    (by simpa using ht)
  unfold State.writeImages
  simp only [hl, State.modStn_stn, h, Mover.lockImage_eq_lockOrder]

/-- A station that the mover does not name keeps its image. -/
theorem State.writeImages_other (s : State) (m : MoverNo) {st : StationNo} (ht : st ∉ (s.mv m).cfg.tracks)
    (hl : (s.mv m).cfg.lockst ≠ some st) : (s.writeImages m).stn st = s.stn st := by
  have h := foldl_modStn_stn_other (fun i y => { y with image := (s.mv m).driveImage i y.image }) (s.mv m).cfg.tracks.zipIdx s
    (by simpa using ht)
  unfold State.writeImages
  dsimp only
  split
  · rename_i l e
    rw [State.modStn_stn_ne _ fun k => hl (by rw [e, k])]; exact h
  · exact h

/-- No track of a mover is its lock station (R3). -/
theorem State.stationsSound.apart {s : State} (hs : s.stationsSound) {m : MoverNo} {st : StationNo}
    (ht : st ∈ (s.mv m).cfg.tracks) : (s.mv m).cfg.lockst ≠ some st := fun hl => by
  obtain ⟨x, hx, hd, -⟩ := hs.tracks m st ht
  obtain ⟨y, hy, hk, -⟩ := hs.locks m st hl
  simp_all

/-- The stations of a mover carry the images of its state once it has written them (R7). -/
theorem State.writeImages_orders (s : State) (m : MoverNo) : s.orders (s.writeImages m) m := by
  refine ⟨fun hs hn i st hi => ?_, fun hs st hst => ?_⟩
  · rw [State.writeImages_mv] at hn hi ⊢
    rw [s.writeImages_track m hn hi (hs.apart (List.mem_of_getElem? hi)), Option.map_map]; rfl
  · rw [State.writeImages_mv] at hst ⊢
    rw [s.writeImages_lock m hst fun ht => hs.apart ht hst, Option.map_map]; rfl

/-- A segment that has begun is recorded with its figures as they stand (R37). -/
@[simp] theorem ExecPart.logged_of_begun (q : ExecPart) (h : q.startTime.isSome) : q.logged = q := if_pos h

/-- A segment that never began is recorded with a peak skew of 0 and as never derated (R37, R47, R92). -/
theorem ExecPart.logged_of_unbegun (q : ExecPart) (h : q.startTime = none) : q.logged = { q with peakSkew := 0, derated := false } := by
  simp [ExecPart.logged, h]

/-- What the record says of when the segment began is what its part says. -/
@[simp] theorem ExecPart.logged_startTime (q : ExecPart) : q.logged.startTime = q.startTime := by
  unfold ExecPart.logged; split <;> rfl

end Sys2Proof.Machine
end

