-- ==== Sys2Proof/Laws/KeepsLines.lean ====
section
/-! SUPPORT. What the operations of the track lines and of the supervisory link keep. -/

namespace Sys2Proof.Machine

/-! ## Rounds and exchanges -/

/-- A line changed, its service queue no longer than it was, after what keeps. -/
theorem Keeps.modLine {s t : State} {l : LineId} {f : LineCtl → LineCtl} (h : Keeps s t)
    (hf : ∀ c, (f c).queue.length ≤ c.queue.length) : Keeps s (t.modLine l f) :=
  h.trans (modLine_keeps t l f hf)

/-- A notice raised after what keeps. -/
theorem Keeps.raise {s t : State} {k : NoticeKind} (h : Keeps s t) : Keeps s (t.raise k) := h.trans (raise_keeps t k)

/-- An event of the part's own cancelled after what keeps. -/
theorem Keeps.unpost {s t : State} {i : Instr} (h : Keeps s t) : Keeps s (t.unpost i) := h.trans (unpost_keeps t i)

/-- An event posted after what keeps. -/
theorem Keeps.post {s t : State} {i : Instr} (h : Keeps s t) : Keeps s (t.post i) := h.trans (post_keeps t i)

theorem beginExchange_keeps (s : State) (l : LineId) (st : StationNo) : Keeps s (s.beginExchange l st) := by
  unfold State.beginExchange
  split
  · exact .refl s
  · exact modLine_keeps' s l _ fun _ => rfl

theorem beginService_keeps (s : State) (l : LineId) (r : ServiceRequest) : Keeps s (s.beginService l r) := by
  unfold State.beginService
  exact (Keeps.refl s).modLine fun c => by simp

theorem endRoundInTime_keeps (s : State) (l : LineId) : Keeps s (s.endRoundInTime l) := modLine_keeps' s l _ fun _ => rfl

theorem continueRoundWith_keeps (f : State → LineId → State) (hf : ∀ s l, Keeps s (f s l)) (s : State) (l : LineId) (n : Nat) :
    Keeps s (s.continueRoundWith f l n) := by
  unfold State.continueRoundWith State.serviceDecisionWith
  split
  · exact beginExchange_keeps s l _
  · dsimp only
    split
    · exact hf s l
    · exact Keeps.ite (fun _ => beginService_keeps s l _) fun _ => hf s l

theorem loseStation_keeps (s : State) (st : StationNo) (n : Nat) : Keeps s (s.loseStation st n) := by
  unfold State.loseStation
  split
  · exact .refl s
  · exact Keeps.ite (fun _ => (setStn_keeps s st _).raise.post) fun _ => (setStn_keeps s st _).raise

theorem applyMiss_keeps (l : LineId) (n : Nat) (s : State) (st : StationNo) : Keeps s (State.applyMiss l n s st) := by
  unfold State.applyMiss
  split
  · exact .refl s
  · refine Keeps.ite (fun _ => .refl s) fun _ => ?_
    split
    · exact setStn_keeps s st _
    · exact Keeps.ite (fun _ => loseStation_keeps s st _) fun _ => .refl s
    · exact .refl s

theorem applySettings_keeps (s : State) (l : LineId) : Keeps s (s.applySettings l) := by
  unfold State.applySettings
  split
  · exact .refl s
  · refine Keeps.ite (fun _ => modLine_keeps' s l _ fun _ => rfl) fun _ => ?_
    refine Keeps.trans ?_ (Keeps.foldl (applyMiss_keeps l _) _ _)
    exact (Keeps.refl s).modLine fun _ => le_rfl

theorem beginRound_keeps (s : State) (l : LineId) : Keeps s (s.beginRound l) := by
  unfold State.beginRound
  refine Keeps.trans ?_ (continueRoundWith_keeps _ endRoundInTime_keeps _ l 0)
  exact (applySettings_keeps s l).unpost.modLine fun _ => le_rfl

theorem endRound_keeps (s : State) (l : LineId) : Keeps s (s.endRound l) := by
  unfold State.endRound
  refine Keeps.ite (fun _ => endRoundInTime_keeps s l) fun _ => ?_
  refine Keeps.trans ?_ (beginRound_keeps _ l)
  refine Keeps.ite (fun _ => .refl s) fun _ => Keeps.trans ?_ (raise_keeps _ _)
  exact modLine_keeps' s l _ fun _ => rfl

theorem continueRound_keeps (s : State) (l : LineId) (st : StationNo) : Keeps s (s.continueRound l st) := by
  unfold State.continueRound
  refine Keeps.trans ?_ (continueRoundWith_keeps _ endRound_keeps _ l _)
  exact (unpost_keeps s _).modLine fun _ => le_rfl

theorem endServiceExchange_keeps (s : State) (l : LineId) : Keeps s (s.endServiceExchange l) := by
  unfold State.endServiceExchange
  refine Keeps.trans ?_ (endRound_keeps _ l)
  exact (unpost_keeps s _).modLine fun _ => le_rfl

theorem markTrack_keeps (s : State) (st : StationNo) : Keeps s (s.markTrack st) := by
  unfold State.markTrack
  split
  · exact .refl s
  · refine Keeps.ite (fun _ => ?_) fun _ => .refl s
    refine Keeps.ite (fun _ => Keeps.trans ?_ (postOnce_keeps _ _)) fun _ => ?_
    all_goals exact modMv_keeps' s _ _ (fun _ => rfl) (fun _ => rfl) fun _ => rfl

theorem validReport_keeps (s : State) (st : StationNo) (r : Report) : Keeps s (s.validReport st r) := by
  unfold State.validReport
  split
  · exact .refl s
  · have h : ∀ t, Keeps s t → Keeps s (t.markTrack st) := fun t h => h.trans (markTrack_keeps _ _)
    refine Keeps.ite (fun _ => Keeps.trans ?_ (post_keeps _ _)) fun _ => ?_
    all_goals
      refine h _ (Keeps.ite (fun _ => ?_) fun _ => setStn_keeps s st _)
      exact (setStn_keeps s st _).trans (raise_keeps _ _)

theorem missedReport_keeps (s : State) (l : LineId) (st : StationNo) : Keeps s (s.missedReport l st) := by
  unfold State.missedReport
  split
  · exact .refl s
  · refine Keeps.trans ?_ (markTrack_keeps _ _)
    exact Keeps.ite (fun _ => setStn_keeps s st _) fun _ =>
      Keeps.ite (fun _ => setStn_keeps s st _) fun _ => loseStation_keeps s st _

theorem stationFrame_keeps (s : State) (l : LineId) (st : StationNo) (f : Frame) : Keeps s (s.stationFrame l st f) := by
  unfold State.stationFrame
  refine Keeps.trans ?_ (continueRound_keeps _ l st)
  split
  · exact .refl s
  · split
    · exact validReport_keeps s st _
    · exact missedReport_keeps s l st

theorem finishService_keeps (s : State) (l : LineId) (r : ServiceRequest) (res : ServiceResult) (v : Option Int) :
    Keeps s (s.finishService l r res v) :=
  (raise_keeps s _).trans (endServiceExchange_keeps _ l)

theorem serviceFrame_keeps (s : State) (l : LineId) (r : ServiceRequest) (f : Frame) : Keeps s (s.serviceFrame l r f) := by
  unfold State.serviceFrame
  dsimp only
  split <;> exact finishService_keeps s l r _ _

theorem discardRequests_keeps (s : State) (l : LineId) (p : ServiceRequest → Bool) : Keeps s (s.discardRequests l p) := by
  unfold State.discardRequests
  refine Keeps.modLine (Keeps.trans ?_ (Keeps.foldl (fun s r => raise_keeps s _) _ _)) fun c => List.length_filter_le _ _
  split
  · exact Keeps.ite (fun _ => (raise_keeps s _).unpost.modLine fun _ => le_rfl) fun _ => .refl s
  · exact .refl s

theorem periodExpiry_keeps (s : State) (l : LineId) : Keeps s (s.periodExpiry l) := by
  unfold State.periodExpiry
  exact Keeps.ite (fun _ => .refl s) fun _ =>
    Keeps.ite (fun _ => beginRound_keeps s l) fun _ => modLine_keeps' s l _ fun _ => rfl

/-! ## The supervisory link -/

theorem Keeps.of_link {s t : State} (h : Keeps s t) (k : s.link.Bounded) : t.link.Bounded := h.link k

theorem beginSending_keeps (s : State) (ps : List Text) : Keeps s (s.beginSending ps) :=
  link_keeps s _ (fun h => ⟨h.buffer, h.errors, h.fullReplies, h.execReplies⟩) id

theorem notices_keeps (s : State) (n : NoticeUnit) (h : s.notices.bounded → n.bounded) : Keeps s { s with notices := n } :=
  ⟨rfl, id, h, id, id, id, id, id⟩

theorem sendNotice_keeps (s : State) : Keeps s s.sendNotice := by
  unfold State.sendNotice
  split
  · exact .refl s
  · dsimp only
    split
    · exact .refl s
    · refine Keeps.trans ?_ (beginSending_keeps _ _)
      refine notices_keeps s _ fun h => put_bounded _ _ _ h ?_
      have := get_bounded _ ‹NoticeClass› h
      simp only [ClassQueue.bounded, *, List.length_cons] at this ⊢
      omega

/-- The bounds of the port with the head of its reply queue gone. -/
theorem bounded_tail (p : LinkPort) (r : Reply) (rest : List Reply) (e : p.replies = r :: rest) (h : p.Bounded) :
    ({ p with replies := rest } : LinkPort).Bounded := by
  have h1 := h.fullReplies
  have h2 := h.execReplies
  rw [e, List.filter_cons] at h1 h2
  refine ⟨h.buffer, h.errors, ?_, ?_⟩
  · split at h1
    · exact Nat.le_trans (Nat.le_succ _) h1
    · exact h1
  · split at h2
    · exact Nat.le_trans (Nat.le_succ _) h2
    · exact h2

theorem serveTransmitter_keeps (s : State) : Keeps s s.serveTransmitter := by
  unfold State.serveTransmitter
  refine Keeps.ite (fun _ => .refl s) fun _ => ?_
  split
  · exact Keeps.trans (link_keeps s _ (bounded_tail _ _ _ ‹_›) fun h => by simp_all) (beginSending_keeps _ _)
  · exact sendNotice_keeps s

theorem endLine_keeps (s : State) : Keeps s s.endLine := by
  unfold State.endLine
  split
  · exact .refl s
  · exact link_keeps s _ (fun h => ⟨h.buffer, h.errors, h.fullReplies, h.execReplies⟩) id

theorem sup_keeps (s : State) (x : Supervision) : Keeps s { s with link := { s.link with sup := x } } :=
  link_keeps s _ (fun h => ⟨h.buffer, h.errors, h.fullReplies, h.execReplies⟩) id

theorem loseLink_keeps (s : State) (c : LinkCause) : Keeps s (s.loseLink c) := by
  unfold State.loseLink
  exact (((unpost_keeps s _).trans (sup_keeps _ _)).trans (raise_keeps _ _)).trans (postEach_keeps _ _ _)

theorem restartSupervision_keeps (s : State) : Keeps s s.restartSupervision := (unpost_keeps s _).trans (sup_keeps _ _)

theorem observeArrival_keeps (s : State) (v : Text) : Keeps s (s.observeArrival v) := by
  unfold State.observeArrival
  split
  · exact .refl s
  · exact Keeps.ite (fun _ => restartSupervision_keeps s) fun _ => Keeps.ite (fun _ => .refl s) fun _ =>
      Keeps.ite (fun _ => loseLink_keeps s _) fun _ => restartSupervision_keeps s

theorem countDamaged_keeps (s : State) : Keeps s s.countDamaged :=
  link_keeps s _ (fun h => ⟨h.buffer, Nat.min_le_right _ _, h.fullReplies, h.execReplies⟩) id

theorem bufferLine_keeps (s : State) (b : BufferedLine) : Keeps s (s.bufferLine b) := by
  unfold State.bufferLine
  refine Keeps.ite (fun hb => ?_) fun _ => Keeps.ite (fun hf => ?_) fun _ => countDamaged_keeps s
  · exact link_keeps s _ (fun h => ⟨by simpa using hb, h.errors, h.fullReplies, h.execReplies⟩) id
  · refine link_keeps s _ (fun h => ⟨h.buffer, h.errors, ?_, ?_⟩) fun h => by simpa [List.all_append] using h
    · simpa [List.filter_append] using hf
    · simpa [List.filter_append] using h.execReplies

theorem lineArrives_keeps (s : State) (t : Text) : Keeps s (s.lineArrives t) := by
  unfold State.lineArrives
  split
  · exact countDamaged_keeps s
  · exact (observeArrival_keeps s _).trans (bufferLine_keeps _ _)

theorem setReceiver_keeps (s : State) (r : Receiver) : Keeps s (s.setReceiver r) :=
  link_keeps s _ (fun h => ⟨h.buffer, h.errors, h.fullReplies, h.execReplies⟩) id

theorem joinLine_keeps (s : State) (t : Text) (d : Bool) (c : Char) (g : Bool) : Keeps s (s.joinLine t d c g) := by
  unfold State.joinLine
  exact Keeps.ite (fun _ => setReceiver_keeps s _) fun _ => setReceiver_keeps s _

theorem receiveChar_keeps (s : State) (x : RxChar) : Keeps s (s.receiveChar x) := by
  unfold State.receiveChar
  dsimp only
  split
  · exact Keeps.ite (fun _ => setReceiver_keeps s _) fun _ => Keeps.ite (fun _ => .refl s) fun _ =>
      (countDamaged_keeps s).trans (setReceiver_keeps _ _)
  · refine Keeps.ite (fun _ => (countDamaged_keeps s).trans (setReceiver_keeps _ _)) fun _ =>
      Keeps.ite (fun _ => ?_) fun _ => joinLine_keeps s _ _ _ _
    exact Keeps.ite (fun _ => (setReceiver_keeps s _).trans (countDamaged_keeps _)) fun _ =>
      (setReceiver_keeps s _).trans (lineArrives_keeps _ _)

end Sys2Proof.Machine
end

