-- ==== Sys2Proof/Laws/KeepsVerbs.lean ====
section
/-! SUPPORT. What the verbs' actions keep: the state an accepted command leaves (R165). -/

namespace Sys2Proof.Machine

/-! ## Accepted commands -/

/-- A chain of tests that is passed: each part is passed, and hands its value on. -/
theorem Test.bind_ok {α β : Type} {x : Test α} {f : α → Test β} {b : β} (h : (x >>= f) = .ok b) :
    ∃ a, x = .ok a ∧ f a = .ok b := by
  cases x with
  | error e => cases h
  | ok a => exact ⟨a, rfl, h⟩

/-- A list of tests that is passed has no failing condition. -/
theorem firstFailing_ok {ts : List (Bool × Reason)} {u : Unit} (h : firstFailing ts = .ok u) : ∀ t ∈ ts, t.1 = false := by
  induction ts with
  | nil => intro t ht; cases ht
  | cons a ts ih =>
    obtain ⟨c, r⟩ := a
    cases c with
    | true => cases h
    | false =>
      intro t ht
      cases ht with
      | head => rfl
      | tail _ ht => exact ih h t ht

/-- A passed range test hands on a number of the range. -/
theorem natIn_ok {lo hi r : Nat} {x : Int} (h : natIn lo hi x = .ok r) : lo ≤ r ∧ r ≤ hi ∧ (r : Int) = x := by
  unfold natIn at h
  split at h
  · cases h; omega
  · cases h

/-- What an action keeps where it accepts. -/
def Act.Keeps (act : Act) : Prop := ∀ fs s r, act fs s = .ok r → Machine.Keeps s r.1

/-- An accepted DEFMOVER names a CAP of at least 1 (R2). -/
theorem parseDefmover_cap {fs : List Field} {r : MoverNo × MoverRec} (h : parseDefmover fs = .ok r) : 1 ≤ r.2.cap := by
  unfold parseDefmover at h
  repeat (obtain ⟨_, _, h⟩ := Test.bind_ok h)
  rename_i _ hcap _ _ _
  cases h
  exact (natIn_ok hcap).1

/-! ## The actions of the movers and of the pool -/

theorem takeStations_keeps (s : State) (m : MoverNo) (r : MoverRec) : Keeps s (s.takeStations m r) :=
  Keeps.foldl (fun s st => modStn_keeps s st _) _ s

/-- A mover under a new record whose CAP is at least its pending count (R3 test 6). -/
theorem define_keeps (s : State) (m : MoverNo) (r : MoverRec) (h : (s.mv m).chain.length ≤ r.cap) (k : 1 ≤ r.cap) :
    Keeps s (s.modMv m fun x => x.define r) := by
  have hd : ((s.mv m).define r).chain = (s.mv m).chain ∧ ((s.mv m).define r).exec = (s.mv m).exec ∧
      ((s.mv m).define r).record = some r := by
    unfold Mover.define
    split <;> exact ⟨rfl, rfl, rfl⟩
  refine ⟨rfl, id, id, id, id, id, ?_, ?_⟩
  · refine poolSound_of_eq (fun m' => ?_) rfl rfl
    by_cases e : m' = m
    · subst e
      rw [State.modMv_mv]
      simp [Mover.slots, hd]
    · rw [State.modMv_mv_ne s e]
  · intro c m'
    by_cases e : m' = m
    · subst e
      rw [State.modMv_mv]
      simpa [Mover.chainSound, Mover.cfg, hd] using ⟨h, k⟩
    · rw [State.modMv_mv_ne s e]
      exact c m'

theorem takeStations_mv (s : State) (m : MoverNo) (r : MoverRec) (n : MoverNo) : (s.takeStations m r).mv n = s.mv n := by
  unfold State.takeStations
  generalize allStations = l
  induction l generalizing s with
  | nil => rfl
  | cons st l ih =>
    rw [List.foldl_cons, ih]
    rfl

theorem defineMover_keeps (s : State) (m : MoverNo) (r : MoverRec) (h : (s.mv m).chain.length ≤ r.cap) (k : 1 ≤ r.cap) :
    Keeps s (s.defineMover m r) := by
  unfold State.defineMover
  refine Keeps.trans ?_ (writeImages_keeps _ _)
  have key : Keeps s ((s.takeStations m r).modMv m fun x => x.define r) := by
    refine (takeStations_keeps s m r).trans (define_keeps _ m r ?_ k)
    rw [takeStations_mv]
    exact h
  exact Keeps.ite (fun _ => key.trans (modTrig_keeps _ m _)) fun _ => key

theorem actDefmover_keeps : actDefmover.Keeps := by
  intro fs s r h
  obtain ⟨a, ha, h⟩ := Test.bind_ok h
  obtain ⟨_, ht, h⟩ := Test.bind_ok h
  cases h
  have := firstFailing_ok ht (decide (a.2.cap < (s.mv a.1).chain.length), .conflict) (by simp [State.defmoverTests])
  exact defineMover_keeps s _ _ (by simpa using this) (parseDefmover_cap ha)

theorem actGo_keeps : actGo.Keeps := by
  intro fs s r h
  obtain ⟨_, _, h⟩ := Test.bind_ok h
  obtain ⟨_, _, h⟩ := Test.bind_ok h
  cases h
  exact (take_keeps s _).trans (startTaken_keeps _ _)

theorem actHold_keeps : actHold.Keeps := by
  intro fs s r h
  obtain ⟨_, _, h⟩ := Test.bind_ok h
  obtain ⟨_, _, h⟩ := Test.bind_ok h
  cases h
  exact Keeps.foldl (fun s m => addReason_keeps s m _) _ s

theorem actResume_keeps : actResume.Keeps := by
  intro fs s r h
  obtain ⟨_, _, h⟩ := Test.bind_ok h
  obtain ⟨_, _, h⟩ := Test.bind_ok h
  cases h
  exact Keeps.ite (fun _ => enterIdle_keeps s _) fun _ => removeReasons_keeps s _ _

theorem putStop_keeps (s : State) (m : MoverNo) : Keeps s (s.putStop m) :=
  modMv_keeps' s m _ (fun _ => rfl) (fun _ => rfl) fun _ => rfl

theorem stopMover_keeps (s : State) (m : MoverNo) : Keeps s (s.stopMover m) := by
  unfold State.stopMover
  split
  · exact flushChain_keeps s m
  · exact flushChain_keeps s m
  · exact flushChain_keeps s m
  · exact (withdrawRequest_keeps s m).trans (finishStop_keeps _ m)
  · exact finishStop_keeps s m
  · exact ((putStop_keeps s m).trans (cancelTlock_keeps _ m)).trans (holdWithBrakes_keeps _ m)
  · exact (putStop_keeps s m).trans (holdWithBrakes_keeps _ m)
  · exact (putStop_keeps s m).trans (holdMoving_keeps _ m)
  · exact putStop_keeps s m
  all_goals exact .refl s

theorem actStop_keeps : actStop.Keeps := by
  intro fs s r h
  obtain ⟨_, _, h⟩ := Test.bind_ok h
  obtain ⟨_, _, h⟩ := Test.bind_ok h
  cases h
  exact stopMover_keeps s _

theorem actEstop_keeps : actEstop.Keeps := by
  intro fs s r h
  obtain ⟨_, _, h⟩ := Test.bind_ok h
  obtain ⟨_, _, h⟩ := Test.bind_ok h
  cases h
  exact Keeps.foldl emergencyStop_keeps _ s

theorem ackFault_keeps (s : State) (m : MoverNo) : Keeps s (s.ackFault m) := by
  unfold State.ackFault
  refine Keeps.trans (Keeps.trans ?_ (initPositionAtRest_keeps _ m)) (enterIdle_keeps _ m)
  exact modMv_keeps' s m _ (fun _ => rfl) (fun _ => rfl) fun _ => rfl

theorem actAckfault_keeps : actAckfault.Keeps := by
  intro fs s r h
  obtain ⟨_, _, h⟩ := Test.bind_ok h
  obtain ⟨_, _, h⟩ := Test.bind_ok h
  cases h
  exact Keeps.ite (fun _ => ackFault_keeps s _) fun _ => .refl s

theorem stageSegment_keeps (s : State) (m : MoverNo) (mo : Motion)
    (h : s.chainsSound → (s.mv m).chain.length < (s.mv m).cfg.cap) : Keeps s (s.stageSegment m mo) :=
  Keeps.ite (fun _ => (placeSegment_keeps s m mo _ h).trans (requestPath_keeps _ m _)) fun _ => placeSegment_keeps s m mo _ h

theorem actStage_keeps : actStage.Keeps := by
  intro fs s r h
  obtain ⟨a, _, h⟩ := Test.bind_ok h
  obtain ⟨_, ht, h⟩ := Test.bind_ok h
  cases h
  have := firstFailing_ok ht (decide ((s.mv a.1).cfg.cap ≤ (s.mv a.1).chain.length), .chainFull) (by simp [State.stageTests])
  exact stageSegment_keeps s _ _ fun _ => by simpa using this

theorem actFlush_keeps : actFlush.Keeps := by
  intro fs s r h
  obtain ⟨_, _, h⟩ := Test.bind_ok h
  obtain ⟨_, _, h⟩ := Test.bind_ok h
  cases h
  exact flushChain_keeps s _

/-- How often a slot stands in the free list after records were read (R51). -/
theorem count_freeSlots (a : SlotNo) (rs : List LogRecord) (free : List SlotNo) :
    (freeSlots free rs).count a = free.count a + (rs.map fun r => r.seg.slot).count a := by
  unfold freeSlots
  induction rs generalizing free with
  | nil => simp
  | cons r rs ih =>
    rw [List.foldl_cons, ih]
    simp only [List.count_cons, List.map_cons]
    omega

theorem readLog_keeps (s : State) (k : Nat) : Keeps s (s.readLog k) := by
  unfold State.readLog
  refine Keeps.trans ?_ (thresholdTest_keeps _)
  refine ⟨rfl, id, id, id, id, id, fun h => ?_, id⟩
  refine poolSound_of_trade (s := s) 0 (fun _ _ => rfl) (fun a => ?_) h
  show (freeSlots s.pool.free (s.pool.log.take k)).count a + (s.mv 0).slots.count a +
    ((s.pool.log.drop k).map fun r => r.seg.slot).count a = _
  have e : (s.pool.log.map fun r => r.seg.slot).count a =
      ((s.pool.log.take k).map fun r => r.seg.slot).count a + ((s.pool.log.drop k).map fun r => r.seg.slot).count a := by
    rw [← List.count_append, ← List.map_append, List.take_append_drop]
  rw [count_freeSlots, e]
  omega

theorem actLogread_keeps : actLogread.Keeps := by
  intro fs s r h
  obtain ⟨_, _, h⟩ := Test.bind_ok h
  cases h
  exact readLog_keeps s _

/-! ## The actions of the arbiter, the rules and the weather -/

theorem setPower_keeps (s : State) (b : Option Nat) (mode : Option PowerMode) (h : ∀ x, b = some x → s.grantedSum ≤ x) :
    Keeps s (s.setPower b mode) := by
  have key : Keeps s { s with power := { s.power with mode := mode.getD s.power.mode, budget := b.getD s.power.budget } } := by
    refine ⟨rfl, id, id, id, id, fun k => ?_, id, id⟩
    cases b with
    | none => exact k
    | some x => exact h x rfl
  exact Keeps.ite (fun _ => key.trans (arbitrate_keeps _)) fun _ => key

theorem actSetpower_keeps : actSetpower.Keeps := by
  intro fs s r h
  obtain ⟨a, _, h⟩ := Test.bind_ok h
  obtain ⟨_, ht, h⟩ := Test.bind_ok h
  cases h
  have := firstFailing_ok ht (a.1.any fun b => decide (b < s.grantedSum), .budgetInUse) (by simp)
  refine setPower_keeps s _ _ fun x e => ?_
  simpa [e] using this

theorem actDefrule_keeps : actDefrule.Keeps := by
  intro fs s r h
  obtain ⟨a, _, h⟩ := Test.bind_ok h
  obtain ⟨c, a⟩ := a
  cases a
  · obtain ⟨_, _, h⟩ := Test.bind_ok h
    cases h
    exact setRule_keeps s _ _
  · obtain ⟨_, _, h⟩ := Test.bind_ok h
    cases h
    exact setRule_keeps s _ _

theorem setWx_keeps (s : State) (src : List StationNo) (t : WxThresholds) : Keeps s (s.setWx src t) := by
  unfold State.setWx
  refine Keeps.trans (Keeps.trans ?_ (holdAtSetwx_keeps _ t)) (formDerate_keeps _)
  have key : Keeps s { s.markSources src with
      wx := { (s.markSources src).wx with sources := src, thresholds := some t } }.formFigure :=
    ((Keeps.foldl (fun s st => modStn_keeps s st _) _ s).trans (wx_keeps _ _)).trans (formFigure_keeps _)
  exact Keeps.ite (fun _ => key.raise) fun _ => key

theorem actSetwx_keeps : actSetwx.Keeps := by
  intro fs s r h
  obtain ⟨_, _, h⟩ := Test.bind_ok h
  obtain ⟨_, _, h⟩ := Test.bind_ok h
  cases h
  exact setWx_keeps s _ _

theorem setPlan_keeps (s : State) (m : MoverNo) (p : Option Motion) : Keeps s (s.setPlan m p) := modTrig_keeps s m _

theorem actSetplan_keeps : actSetplan.Keeps := by
  intro fs s r h
  obtain ⟨_, _, h⟩ := Test.bind_ok h
  obtain ⟨_, _, h⟩ := Test.bind_ok h
  cases h
  exact setPlan_keeps s _ _

theorem actSettrig_keeps : actSettrig.Keeps := by
  intro fs s r h
  obtain ⟨_, _, h⟩ := Test.bind_ok h
  obtain ⟨_, _, h⟩ := Test.bind_ok h
  cases h
  exact Keeps.foldl (fun s m => modTrig_keeps s m _) _ s

/-! ## The actions of the track lines -/

theorem lineOff_keeps (s : State) (l : LineId) : Keeps s (s.lineOff l) := by
  unfold State.lineOff
  exact ((unpost_keeps s _).unpost.unpost).modLine fun _ => le_rfl

theorem defineLine_keeps (s : State) (l : LineId) (r : Option LineSettings) : Keeps s (s.defineLine l r) := by
  unfold State.defineLine
  dsimp only
  have key := discardRequests_keeps s l fun _ => true
  generalize (s.discardRequests l fun _ => true) = t at key
  refine key.trans ?_
  split
  · exact .refl _
  · exact lineOff_keeps _ l
  · refine Keeps.trans ?_ (beginRound_keeps _ l)
    exact modLine_keeps t l _ fun _ => le_rfl
  · refine Keeps.ite (fun _ => Keeps.trans ?_ (endRound_keeps _ l)) fun _ => ?_
    all_goals exact modLine_keeps t l _ fun _ => le_rfl

theorem actDefline_keeps : actDefline.Keeps := by
  intro fs s r h
  obtain ⟨_, _, h⟩ := Test.bind_ok h
  obtain ⟨_, _, h⟩ := Test.bind_ok h
  cases h
  exact defineLine_keeps s _ _

theorem abandonStation_keeps (s : State) (l : LineId) (st : StationNo) : Keeps s (s.abandonStation l st) := by
  unfold State.abandonStation
  refine Keeps.trans (discardRequests_keeps s l fun r => r.station == st) ?_
  exact Keeps.ite (fun _ => endRound_keeps _ l) fun _ => Keeps.ite (fun _ => continueRound_keeps _ l st) fun _ => .refl _

theorem unsetOwner_keeps (s : State) (x : Option Station) : Keeps s (s.unsetOwner x) := by
  unfold State.unsetOwner
  split
  · exact modMv_keeps' s _ _ (fun _ => rfl) (fun _ => rfl) fun _ => rfl
  · exact .refl s

theorem defineStation_keeps (s : State) (st : StationNo) (a : Option StationArgs) : Keeps s (s.defineStation st a) := by
  unfold State.defineStation
  have key := (setStn_keeps s st (a.map (newStation (s.stn st)))).trans (unsetOwner_keeps _ (s.stn st))
  dsimp only
  split
  · exact key.trans (abandonStation_keeps _ _ st)
  · exact key

theorem actDefstn_keeps : actDefstn.Keeps := by
  intro fs s r h
  obtain ⟨_, _, h⟩ := Test.bind_ok h
  obtain ⟨_, _, h⟩ := Test.bind_ok h
  cases h
  exact defineStation_keeps s _ _

/-- A request queued where the queue has room (R157). -/
theorem queueService_keeps (s : State) (a : ServiceArgs)
    (h : ∀ l, s.lineOf a.station = some l → (s.line l).queue.length < Config.serviceQueueSize) : Keeps s (s.queueService a) := by
  unfold State.queueService
  split
  · exact .refl s
  · rename_i l hl
    have := h l hl
    cases l
    · exact ⟨rfl, id, id, id, fun k => ⟨by simpa [LineCtl.bounded, State.modLine, State.line] using this, k.2⟩, id, id, id⟩
    · exact ⟨rfl, id, id, id, fun k => ⟨k.1, by simpa [LineCtl.bounded, State.modLine, State.line] using this⟩, id, id, id⟩

theorem actService_keeps : actService.Keeps := by
  intro fs s r h
  obtain ⟨a, _, h⟩ := Test.bind_ok h
  obtain ⟨_, ht, h⟩ := Test.bind_ok h
  cases h
  refine queueService_keeps s a fun l hl => ?_
  have := firstFailing_ok ht
    ((s.lineOf a.station).any fun l => decide (Config.serviceQueueSize ≤ (s.line l).queue.length), .queueFull)
    (by simp [State.serviceTests])
  simpa [hl] using this

/-! ## The actions of the link port and of the Notice Unit -/

theorem supervise_keeps (s : State) (a : Option (Nat × Nat)) : Keeps s (s.supervise a) := by
  cases a with
  | none => exact (unpost_keeps s _).trans (sup_keeps _ _)
  | some a => exact (sup_keeps s _).trans (restartSupervision_keeps _)

theorem actSupervise_keeps : actSupervise.Keeps := by
  intro fs s r h
  obtain ⟨_, _, h⟩ := Test.bind_ok h
  obtain ⟨_, _, h⟩ := Test.bind_ok h
  cases h
  exact supervise_keeps s _

theorem actLinkstat_keeps : actLinkstat.Keeps := by
  intro fs s r h
  obtain ⟨_, _, h⟩ := Test.bind_ok h
  cases h
  exact link_keeps s _ (fun h => ⟨h.buffer, Nat.zero_le _, h.fullReplies, h.execReplies⟩) id

/-- The power-up values satisfy every invariant of Safety.lean: the free list holds the 256 slots. -/
theorem powerUp_slots (s : State) (hm : s.movers = Vector.replicate 8 {}) (hp : s.pool = {}) : s.poolSound := by
  have e : ∀ m, s.mv m = {} := fun m => by simp [State.mv, hm]
  have f : allMovers.flatMap (fun _ => ([] : List SlotNo)) = [] := by decide
  simp [State.poolSound, State.slots, e, Mover.slots, hp, f]

theorem takeStopLevel_keeps (s : State) : Keeps s s.takeStopLevel := Keeps.ite (fun _ => raise_keeps s _) fun _ => .refl s

/-- A state whose blocks stand at their power-up values, but for what the port is sending and receiving, is reached by keeping. -/
theorem keeps_of_powerUp {s t : State} (h : t.pending = s.pending) (hm : t.movers = Vector.replicate 8 {}) (hp : t.pool = {})
    (hw : t.power = {}) (ha : t.lineA = {}) (hb : t.lineB = {}) (hn : t.notices = {})
    (hl : t.link.inputBuffer = [] ∧ t.link.replies = [] ∧ t.link.errors = 0) : Keeps s t where
  pending := h
  quiet := fun _ => by simp [hl.2.1]
  notices := fun _ => by rw [hn]; simp [NoticeUnit.bounded, ClassQueue.bounded]
  link := fun _ => by
    obtain ⟨h1, h2, h3⟩ := hl
    exact ⟨by simp [h1], by simp [h3], by simp [h2], by simp [h2]⟩
  queues := fun _ => by simp [State.queuesSound, LineCtl.bounded, ha, hb]
  power := fun _ => by simp [State.powerSound, State.grantedSum, hw]
  pool := fun _ => powerUp_slots t hm hp
  chains := fun _ m => by
    have e : t.mv m = {} := by simp [State.mv, hm]
    simp [e, Mover.chainSound, Mover.cfg]

theorem actClearall_keeps : actClearall.Keeps := by
  intro fs s r h
  obtain ⟨_, _, h⟩ := Test.bind_ok h
  obtain ⟨_, _, h⟩ := Test.bind_ok h
  cases h
  exact keeps_of_powerUp rfl rfl rfl rfl rfl rfl rfl ⟨rfl, rfl, rfl⟩

theorem setEnable_bounded (q : ClassQueue) (a : Option Bool) (h : q.bounded) : (q.setEnable a).bounded := by
  unfold ClassQueue.setEnable
  split
  · split
    · exact Nat.zero_le _
    · exact h
  · split
    · exact h
    · exact Nat.zero_le _
  · exact h

theorem setNote_keeps (s : State) (a : NoteArgs) : Keeps s (s.setNote a) := by
  unfold State.setNote
  dsimp only
  split
  · refine Keeps.trans ?_ (thresholdTest_keeps _)
    exact notices_keeps s _ fun h => ⟨setEnable_bounded _ _ h.1, setEnable_bounded _ _ h.2.1, setEnable_bounded _ _ h.2.2.1,
      setEnable_bounded _ _ h.2.2.2⟩
  · exact notices_keeps s _ fun h => ⟨setEnable_bounded _ _ h.1, setEnable_bounded _ _ h.2.1, setEnable_bounded _ _ h.2.2.1,
      setEnable_bounded _ _ h.2.2.2⟩

theorem actSetnote_keeps : actSetnote.Keeps := by
  intro fs s r h
  obtain ⟨_, _, h⟩ := Test.bind_ok h
  cases h
  exact setNote_keeps s _

/-! ## The actions that only read -/

theorem actMoverstat_keeps : actMoverstat.Keeps := by
  intro fs s r h
  obtain ⟨_, _, h⟩ := Test.bind_ok h
  cases h
  exact .refl s

theorem actPoolstat_keeps : actPoolstat.Keeps := by
  intro fs s r h
  obtain ⟨_, _, h⟩ := Test.bind_ok h
  cases h
  exact .refl s

theorem actPowerstat_keeps : actPowerstat.Keeps := by
  intro fs s r h
  obtain ⟨_, _, h⟩ := Test.bind_ok h
  cases h
  exact .refl s

theorem actWxstat_keeps : actWxstat.Keeps := by
  intro fs s r h
  obtain ⟨_, _, h⟩ := Test.bind_ok h
  cases h
  exact .refl s

theorem actLinestat_keeps : actLinestat.Keeps := by
  intro fs s r h
  obtain ⟨_, _, h⟩ := Test.bind_ok h
  cases h
  exact .refl s

theorem actStnstat_keeps : actStnstat.Keeps := by
  intro fs s r h
  obtain ⟨_, _, h⟩ := Test.bind_ok h
  cases h
  exact .refl s

theorem actBeat_keeps : actBeat.Keeps := by
  intro fs s r h
  obtain ⟨_, _, h⟩ := Test.bind_ok h
  cases h
  exact .refl s

theorem actRulestat_keeps : actRulestat.Keeps := by
  intro fs s r h
  obtain ⟨_, _, h⟩ := Test.bind_ok h
  split at h <;>
    · cases h
      exact .refl s

end Sys2Proof.Machine
end

