-- ==== Sys2Proof/Laws/KeepsStep.lean ====
section
/-! SUPPORT. What the execution of a command line (R165) and a millisecond of the timebase (R1) keep. -/

namespace Sys2Proof.Machine

/-! ## The execution of a line -/

theorem leaveBuffer_keeps (s : State) : Keeps s s.leaveBuffer := by
  refine link_keeps s _ (fun h => ⟨?_, h.errors, h.fullReplies, h.execReplies⟩) id
  have := h.buffer
  simp only [List.length_tail]
  omega

theorem deferLine_keeps (s : State) (b : BufferedLine) : Keeps s (s.deferLine b) :=
  Keeps.ite (fun _ => .refl s) fun _ => bufferLine_keeps s b

/-- Where no reply of an execution waits, one may join the queue (R165, R169). -/
theorem reply_keeps (s : State) (r : Reply) (q : s.link.replies.all Reply.full = true) (e : r.full = false) :
    (s.reply r).pending = s.pending ∧ (s.notices.bounded → (s.reply r).notices.bounded) ∧
      (s.link.Bounded → (s.reply r).link.Bounded) ∧ (s.queuesSound → (s.reply r).queuesSound) ∧
      (s.powerSound → (s.reply r).powerSound) ∧ (s.poolSound → (s.reply r).poolSound) ∧
      (s.chainsSound → (s.reply r).chainsSound) := by
  refine ⟨rfl, id, fun h => ⟨h.buffer, h.errors, ?_, ?_⟩, id, id, id, id⟩
  · simpa [State.reply, List.filter_append, e] using h.fullReplies
  · have : (s.link.replies.filter fun r => !r.full) = [] := by
      rw [List.filter_eq_nil_iff]
      intro x hx
      simp [List.all_eq_true.1 q x hx]
    simp [State.reply, List.filter_append, this, e]

/-- What `Keeps` says without the reply queue's part: an execution's reply may have joined it. -/
structure Sound (s t : State) : Prop where
  pending : t.pending = s.pending
  notices : s.notices.bounded → t.notices.bounded
  link : s.link.Bounded → t.link.Bounded
  queues : s.queuesSound → t.queuesSound
  power : s.powerSound → t.powerSound
  pool : s.poolSound → t.poolSound
  chains : s.chainsSound → t.chainsSound

theorem Keeps.sound {s t : State} (h : Keeps s t) : Sound s t :=
  ⟨h.pending, h.notices, h.link, h.queues, h.power, h.pool, h.chains⟩

theorem Sound.trans {s t u : State} (h : Sound s t) (k : Sound t u) : Sound s u :=
  ⟨k.pending.trans h.pending, k.notices ∘ h.notices, k.link ∘ h.link, k.queues ∘ h.queues, k.power ∘ h.power, k.pool ∘ h.pool,
    k.chains ∘ h.chains⟩

theorem reply_sound (s : State) (r : Reply) (q : s.link.replies.all Reply.full = true) (e : r.full = false) :
    Sound s (s.reply r) := by
  obtain ⟨h1, h2, h3, h4, h5, h6, h7⟩ := reply_keeps s r q e
  exact ⟨h1, h2, h3, h4, h5, h6, h7⟩

/-- A line that is next finds no reply of an execution waiting (R165). -/
theorem lineIsNext_quiet {s : State} {b : BufferedLine} (h : s.lineIsNext b = true) : s.link.replies.all Reply.full = true := by
  have h := (Bool.and_eq_true _ _ ▸ h : _ ∧ _).1
  simpa [LinkPort.executionReplyWaits] using h

theorem runLine_sound (s : State) (ln : CommandLine) (act : Act) (ha : act.Keeps) (q : s.link.replies.all Reply.full = true) :
    Sound s (s.runLine ln act) := by
  unfold State.runLine
  split
  · exact reply_sound s _ q rfl
  · rename_i fs _
    cases e : act fs s with
    | error r => exact reply_sound s _ q rfl
    | ok r =>
      have k := ha fs s r e
      exact k.sound.trans (reply_sound _ _ (k.quiet q) rfl)

/-- The execution of a command line whose action keeps (R165). -/
theorem executeLine_sound (s : State) (verb : String) (ln : CommandLine) (act : Act) (ha : act.Keeps) :
    Sound s (s.executeLine verb ln act) := by
  unfold State.executeLine
  dsimp only
  split
  · rename_i h
    exact (leaveBuffer_keeps s).sound.trans (runLine_sound _ _ _ ha ((leaveBuffer_keeps s).quiet (lineIsNext_quiet h)))
  · exact (deferLine_keeps s _).sound

/-! ## A millisecond of the timebase -/

theorem postIf_keeps (s : State) (e : Bool) (i : Instr) : Keeps s (s.postIf e i) :=
  Keeps.ite (fun _ => postOnce_keeps s i) fun _ => .refl s

theorem tickMoverTimers_keeps (s : State) (m : MoverNo) : Keeps s (s.tickMoverTimers m) := by
  unfold State.tickMoverTimers
  refine Keeps.trans (Keeps.trans (Keeps.trans ?_ (postIf_keeps _ _ _)) (postIf_keeps _ _ _)) (postIf_keeps _ _ _)
  exact modMv_keeps' s m _ (fun _ => rfl) (fun _ => rfl) fun _ => rfl

theorem tickDwell_keeps (s : State) (m : MoverNo) : Keeps s (s.tickDwell m) :=
  Keeps.ite (fun _ => (modPart_keeps s m _).trans (postIf_keeps _ _ _)) fun _ => .refl s

theorem tickAlign_keeps (s : State) (m : MoverNo) : Keeps s (s.tickAlign m) := by
  unfold State.tickAlign
  dsimp only
  split
  · refine Keeps.ite (fun _ => Keeps.trans ?_ (postIf_keeps _ _ _)) fun _ => .refl s
    exact modMv_keeps' s m _ (fun _ => rfl) (fun _ => rfl) fun _ => rfl
  · exact .refl s

theorem tickMover_keeps (s : State) (m : MoverNo) : Keeps s (s.tickMover m) :=
  ((tickMoverTimers_keeps s m).trans (tickDwell_keeps _ m)).trans (tickAlign_keeps _ m)

theorem tickLine_keeps (s : State) (l : LineId) : Keeps s (s.tickLine l) := by
  unfold State.tickLine
  refine Keeps.trans (Keeps.trans ?_ (postIf_keeps _ _ _)) (postIf_keeps _ _ _)
  exact modLine_keeps s l _ fun _ => le_rfl

theorem tickRelease_keeps (s : State) : Keeps s s.tickRelease := by
  unfold State.tickRelease
  split
  · exact (wx_keeps s _).trans (postIf_keeps _ _ _)
  · exact .refl s

theorem tickSupervision_keeps (s : State) : Keeps s s.tickSupervision := by
  unfold State.tickSupervision
  split
  · exact (sup_keeps s _).trans (postIf_keeps _ _ _)
  · exact .refl s

theorem tickTransmitter_keeps (s : State) : Keeps s s.tickTransmitter := by
  unfold State.tickTransmitter
  split
  · refine Keeps.trans ?_ (postIf_keeps _ _ _)
    exact link_keeps s _ (fun h => ⟨h.buffer, h.errors, h.fullReplies, h.execReplies⟩) id
  · exact .refl s

/-- A millisecond of the timebase (R1). -/
theorem tick_keeps (s : State) : Keeps s s.tick := by
  unfold State.tick
  refine Keeps.ite (fun _ => .refl s) fun _ => ?_
  have h : Keeps s { s with timebase := s.timebase + 1 } := ⟨rfl, id, id, id, id, id, id, id⟩
  refine Keeps.trans (Keeps.trans ?_ (tickRelease_keeps _)) (tickTransmitter_keeps _)
  refine Keeps.trans ?_ (Keeps.foldl tickMover_keeps _ _)
  exact ((h.trans (tickSupervision_keeps _)).trans (tickLine_keeps _ .A)).trans (tickLine_keeps _ .B)

end Sys2Proof.Machine
end

