-- ==== Sys2Proof/Laws/Spares.lean ====
section
/-! SUPPORT. What the operations on other movers leave of a mover that stands on no waiting list: all of it. An operation of one mover
reaches another only through the arbiter's list (a grant) and the lists of the clearance rules (a waking), so a mover on neither
is spared. `Spares m s t` is shown once for every operation and composes. -/

namespace Sys2Proof.Machine

/-- Where mover m stands on no waiting list in s, it is in t as it was, with its grant and its trigger settings, and stands on none. -/
def Spares (m : MoverNo) (s t : State) : Prop :=
  s.spared m → t.mv m = s.mv m ∧ t.grant m = s.grant m ∧ t.trig m = s.trig m ∧ t.spared m

variable {m : MoverNo}

theorem Spares.refl (s : State) : Spares m s s := fun h => ⟨rfl, rfl, rfl, h⟩

theorem Spares.trans {s t u : State} (h : Spares m s t) (k : Spares m t u) : Spares m s u := fun hs => by
  obtain ⟨h1, h2, h3, h4⟩ := h hs
  obtain ⟨k1, k2, k3, k4⟩ := k h4
  exact ⟨k1.trans h1, k2.trans h2, k3.trans h3, k4⟩

theorem Spares.foldl {α : Type} {f : State → α → State} (hf : ∀ s a, Spares m s (f s a)) (l : List α) (s : State) :
    Spares m s (l.foldl f s) := by
  induction l generalizing s with
  | nil => exact .refl s
  | cons a l ih => exact (hf s a).trans (ih _)

theorem Spares.ite {c : Prop} [Decidable c] {s t u : State} (h : c → Spares m s t) (k : ¬c → Spares m s u) :
    Spares m s (if c then t else u) := by
  split
  · exact h ‹_›
  · exact k ‹_›

/-- An update that writes neither the movers, the arbiter, the rules nor the trigger settings. -/
theorem Spares.of_eq {s t : State} (h1 : t.movers = s.movers) (h2 : t.power = s.power) (h3 : t.rules = s.rules)
    (h4 : t.wx.triggers = s.wx.triggers) : Spares m s t := fun hs => by
  simp only [State.mv, State.grant, State.trig, State.spared, State.isWaiting, State.rule, h1, h2, h3, h4] at *
  exact ⟨trivial, trivial, trivial, hs⟩

/-- A change of another mover. -/
theorem modMv_spares (s : State) {w : MoverNo} (h : w ≠ m) (f : Mover → Mover) : Spares m s (s.modMv w f) := fun hs =>
  ⟨State.modMv_mv_ne s h.symm f, rfl, rfl, hs⟩

theorem modStn_spares (s : State) (st : StationNo) (f : Station → Station) : Spares m s (s.modStn st f) :=
  .of_eq rfl rfl rfl rfl

theorem unpost_spares (s : State) (i : Instr) : Spares m s (s.unpost i) := .of_eq rfl rfl rfl rfl

theorem pool_spares (s : State) (p : Pool) : Spares m s { s with pool := p } := .of_eq rfl rfl rfl rfl

theorem raise_spares (s : State) (k : NoticeKind) : Spares m s (s.raise k) := .of_eq rfl rfl rfl rfl

theorem modTrig_spares (s : State) {w : MoverNo} (h : w ≠ m) (f : Trigger → Trigger) : Spares m s (s.modTrig w f) := fun hs =>
  ⟨rfl, rfl, State.modTrig_trig_ne s h.symm f, hs⟩

theorem setGrant_spares (s : State) {w : MoverNo} (h : w ≠ m) (g : Nat) : Spares m s (s.setGrant w g) := fun hs =>
  ⟨rfl, State.setGrant_grant_ne s h.symm g, rfl, hs⟩

/-- The arbiter's list replaced by one that does not hold mover m where the old one did not. -/
theorem waiting_spares (s : State) (l : List PowerRequest) (n : MoverNo)
    (h : (∀ e ∈ s.power.waiting, e.mover ≠ m) → ∀ e ∈ l, e.mover ≠ m) :
    Spares m s { s with power := { s.power with waiting := l, pointer := n } } := fun hs => by
  refine ⟨rfl, rfl, rfl, ?_, hs.2⟩
  have := h fun e he => by
    have := hs.1
    simp only [State.isWaiting, List.any_eq_false, beq_iff_eq] at this
    exact this e he
  simp only [State.isWaiting, List.any_eq_false, beq_iff_eq]
  exact this

/-- A rule replaced by one whose list does not hold mover m where the old one's did not. -/
theorem setRule_spares (s : State) (c : RuleNo) (r t : Rule) (hr : s.rule c = some r)
    (h : m ∉ r.waiting → m ∉ t.waiting) : Spares m s (s.setRule c (some t)) := fun hs => by
  refine ⟨rfl, rfl, rfl, hs.1, fun c' r' hc' => ?_⟩
  by_cases e : c' = c
  · subst e
    rw [State.setRule_rule] at hc'
    cases hc'
    exact h (hs.2 _ _ hr)
  · rw [State.setRule_rule_ne s e] at hc'
    exact hs.2 _ _ hc'

theorem modRule_spares (s : State) (c : RuleNo) (f : Rule → Rule) (h : ∀ r, m ∉ r.waiting → m ∉ (f r).waiting) :
    Spares m s (s.modRule c f) := by
  unfold State.modRule
  cases hr : s.rule c with
  | none =>
    intro hs
    refine ⟨rfl, rfl, rfl, hs.1, fun c' r' hc' => ?_⟩
    by_cases e : c' = c
    · subst e
      simp at hc'
    · rw [State.setRule_rule_ne s e] at hc'
      exact hs.2 _ _ hc'
  | some r => exact setRule_spares s c r _ hr (h r)

/-! ## Ops, pool, arbiter and table: operations of another mover w -/

theorem pauseSegmentTimers_spares (s : State) (w : MoverNo) : Spares m s (s.pauseSegmentTimers w) :=
  (unpost_spares s _).trans (unpost_spares _ _)

theorem writeImages_spares (s : State) (w : MoverNo) : Spares m s (s.writeImages w) := by
  unfold State.writeImages
  dsimp only
  split
  · exact (Spares.foldl (fun s t => modStn_spares s _ _) _ s).trans (modStn_spares _ _ _)
  · exact Spares.foldl (fun s t => modStn_spares s _ _) _ s

theorem thresholdTest_spares (s : State) : Spares m s s.thresholdTest := by
  unfold State.thresholdTest
  dsimp only
  refine Spares.ite (fun _ => ?_) fun _ => Spares.ite (fun _ => .of_eq rfl rfl rfl rfl) fun _ => .refl s
  exact .of_eq rfl rfl rfl rfl

theorem appendLog_spares (s : State) (r : LogRecord) : Spares m s (s.appendLog r) := by
  unfold State.appendLog
  exact (pool_spares s _).trans (thresholdTest_spares _)

section Others

variable {w : MoverNo} (hw : w ≠ m)
include hw

theorem enter_spares (s : State) (st : MoverState) (f : Mover → Mover) : Spares m s (s.enter w st f) :=
  (modMv_spares s hw _).trans (writeImages_spares _ _)

theorem startTlock_spares (s : State) : Spares m s (s.startTlock w) := (unpost_spares s _).trans (modMv_spares _ hw _)
theorem cancelTlock_spares (s : State) : Spares m s (s.cancelTlock w) := (unpost_spares s _).trans (modMv_spares _ hw _)
theorem startTbrk_spares (s : State) : Spares m s (s.startTbrk w) := (unpost_spares s _).trans (modMv_spares _ hw _)
theorem cancelTbrk_spares (s : State) : Spares m s (s.cancelTbrk w) := (unpost_spares s _).trans (modMv_spares _ hw _)
theorem startTstop_spares (s : State) : Spares m s (s.startTstop w) := (unpost_spares s _).trans (modMv_spares _ hw _)
theorem cancelTstop_spares (s : State) : Spares m s (s.cancelTstop w) := (unpost_spares s _).trans (modMv_spares _ hw _)
theorem cancelAlign_spares (s : State) : Spares m s (s.cancelAlign w) := (unpost_spares s _).trans (modMv_spares _ hw _)

theorem placeSegment_spares (s : State) (mo : Motion) (o : Origin) : Spares m s (s.placeSegment w mo o) := by
  unfold State.placeSegment
  split
  · exact .refl s
  · exact (pool_spares s _).trans (modMv_spares _ hw _)

theorem take_spares (s : State) : Spares m s (s.take w) := by
  unfold State.take
  split
  · exact .refl s
  · exact .refl s
  · dsimp only
    exact Spares.ite (fun _ => (modMv_spares s hw _).trans (raise_spares _ _)) fun _ => modMv_spares s hw _

theorem logExecuting_spares (s : State) (o : SegOutcome) (k : Option FaultKind) : Spares m s (s.logExecuting w o k) := by
  unfold State.logExecuting
  split
  · exact .refl s
  · exact (((unpost_spares s _).trans (cancelAlign_spares hw _)).trans (modMv_spares _ hw _)).trans (appendLog_spares _ _)

theorem flushChain_spares (s : State) : Spares m s (s.flushChain w) :=
  Spares.foldl (fun s _ => (modMv_spares s hw _).trans (appendLog_spares _ _)) _ s

theorem enterReleasing_spares (s : State) : Spares m s (s.enterReleasing w) :=
  (enter_spares hw s _ _).trans (startTbrk_spares hw _)

theorem enterUnlocking_spares (s : State) : Spares m s (s.enterUnlocking w) :=
  (enter_spares hw s _ _).trans (startTlock_spares hw _)

theorem unlock_spares (s : State) : Spares m s (s.unlock w) :=
  Spares.ite (fun _ => enterReleasing_spares hw s) fun _ => enterUnlocking_spares hw s

end Others

/-- The arbitration grants entries of its list alone. -/
theorem nextGrant_mem {s : State} {e : PowerRequest} (h : s.nextGrant = some e) : e ∈ s.power.waiting := by
  unfold State.nextGrant at h
  split at h
  · have key : ∀ (l : List PowerRequest) (b : Option PowerRequest), (∀ x, b = some x → x ∈ s.power.waiting) →
        (∀ x ∈ l, x ∈ s.power.waiting) → ∀ x,
        l.foldl (fun best e => match best with
          | none => some e
          | some b => if (s.mv e.mover).cfg.prio < (s.mv b.mover).cfg.prio then some e else some b) b = some x →
        x ∈ s.power.waiting := by
      intro l
      induction l with
      | nil => intro b hb _ x hx; exact hb x hx
      | cons a l ih =>
        intro b hb hl x hx
        refine ih _ ?_ (fun y hy => hl y (List.mem_cons_of_mem _ hy)) x hx
        intro y hy
        have ha := hl a List.mem_cons_self
        cases b with
        | none => simp at hy; exact hy ▸ ha
        | some b =>
          dsimp only at hy
          split at hy
          · cases hy; exact ha
          · exact hb y hy
    obtain ⟨h1, -⟩ := Option.filter_eq_some_iff.1 h
    exact key _ none (fun _ h => by cases h) (fun _ h => h) _ h1
  · unfold State.rotateSearch at h
    obtain ⟨i, -, hi⟩ := List.exists_of_findSome?_eq_some h
    exact List.mem_of_find?_eq_some hi

theorem grantEntry_spares (s : State) {e : PowerRequest} (h : e ∈ s.power.waiting) : Spares m s (s.grantEntry e) := by
  intro hs
  have hne : e.mover ≠ m := by
    have := hs.1
    simp only [State.isWaiting, List.any_eq_false, beq_iff_eq] at this
    exact this e h
  unfold State.grantEntry
  exact (((setGrant_spares s hne _).trans
    (waiting_spares _ (s.power.waiting.erase e) (MoverNo.next e.mover) fun h x hx => h x (List.mem_of_mem_erase hx))).trans
    (unlock_spares hne _)) hs

theorem arbitrateN_spares (n : Nat) : ∀ s : State, Spares m s (State.arbitrateN n s) := by
  induction n with
  | zero => exact .refl
  | succ n ih =>
    intro s
    unfold State.arbitrateN
    split
    · exact .refl s
    · rename_i e he
      exact (grantEntry_spares s (nextGrant_mem he)).trans (ih _)

theorem arbitrate_spares (s : State) : Spares m s s.arbitrate := arbitrateN_spares _ s

/-- The list without one mover's entries. -/
theorem withdrawRequest_spares (s : State) (w : MoverNo) : Spares m s (s.withdrawRequest w) :=
  (waiting_spares s _ s.power.pointer fun h x hx => h x (List.mem_of_mem_filter hx)).trans (arbitrate_spares _)

theorem joinRule_spares (s : State) (c : RuleNo) {w : MoverNo} (hw : w ≠ m) : Spares m s (s.joinRule c w) := by
  unfold State.joinRule
  split
  · exact .refl s
  · rename_i r hr
    refine Spares.ite (fun _ => setRule_spares s c r _ hr id) fun _ => ?_
    exact (setRule_spares s c r _ hr fun h => by simp [h, hw.symm]).trans (raise_spares _ _)

theorem requestRule_spares (s : State) (c : RuleNo) {w : MoverNo} (hw : w ≠ m) : Spares m s (s.requestRule c w) := by
  unfold State.requestRule
  split
  · exact .refl s
  · rename_i r hr
    split
    · exact setRule_spares s c r _ hr id
    · exact joinRule_spares s c hw

theorem leaveRule_spares (s : State) (c : RuleNo) (w : MoverNo) : Spares m s (s.leaveRule c w) :=
  modRule_spares s c _ fun _ h k => h (List.mem_of_mem_filter k)

theorem leaveLists_spares (s : State) (w : MoverNo) : Spares m s (s.leaveLists w) :=
  Spares.foldl (fun s c => leaveRule_spares s c w) _ s

theorem resetOpenRules_spares (s : State) (w : MoverNo) : Spares m s (s.resetOpenRules w) := by
  refine Spares.foldl (fun s c => modRule_spares s c _ fun r h => ?_) _ s
  split
  · exact h
  · split
    · exact h
    · split <;> exact h

section Others

variable {w : MoverNo} (hw : w ≠ m)
include hw

theorem requestArrival_spares (s : State) : Spares m s (s.requestArrival w) := by
  unfold State.requestArrival
  have hr : (s.requestOf w).mover = w := by
    unfold State.requestOf
    dsimp only
    split <;> rfl
  have h := (waiting_spares s (s.power.waiting ++ [s.requestOf w]) s.power.pointer fun h x hx => by
    rcases List.mem_append.1 hx with k | k
    · exact h x k
    · rw [List.mem_singleton.1 k, hr]; exact hw).trans (arbitrate_spares (m := m) _)
  exact Spares.ite (fun _ => h.trans (raise_spares _ _)) fun _ => h

theorem enterAwaitPower_spares (s : State) : Spares m s (s.enterAwaitPower w) :=
  (enter_spares hw s _ _).trans (requestArrival_spares hw _)

theorem releaseGrant_spares (s : State) : Spares m s (s.releaseGrant w) :=
  (setGrant_spares s hw 0).trans (arbitrate_spares _)

theorem givePowerBack_spares (s : State) : Spares m s (s.givePowerBack w) := by
  unfold State.givePowerBack
  split
  · exact withdrawRequest_spares s w
  all_goals first | exact releaseGrant_spares hw s | exact .refl s

theorem adjustGrant_spares (s : State) : Spares m s (s.adjustGrant w) := by
  unfold State.adjustGrant
  exact Spares.ite (fun _ => (setGrant_spares s hw _).trans (arbitrate_spares _)) fun _ => setGrant_spares s hw _

theorem requestPath_spares (s : State) (p : Option Path) : Spares m s (s.requestPath w p) :=
  Spares.foldl (fun s c => requestRule_spares s c hw) _ s

theorem holdWithBrakes_spares (s : State) : Spares m s (s.holdWithBrakes w) :=
  (enter_spares hw s _ _).trans (startTbrk_spares hw _)

theorem holdMoving_spares (s : State) : Spares m s (s.holdMoving w) :=
  (pauseSegmentTimers_spares s w).trans (enter_spares hw _ _ _)

theorem refuseEntry_spares (s : State) (cs : List RuleNo) : Spares m s (s.refuseEntry w cs) := by
  unfold State.refuseEntry
  have h := (Spares.foldl (fun s c => joinRule_spares s c hw) cs s).trans
    (modMv_spares _ hw fun x => { x with holdSet := x.holdSet.add (.clearance cs) })
  exact Spares.ite (fun _ => h.trans (holdWithBrakes_spares hw _)) fun _ => h

theorem enterEnding_spares (s : State) (seg : Segment) : Spares m s (s.enterEnding w seg) := by
  unfold State.enterEnding
  refine Spares.trans ?_ (raise_spares _ _)
  have h := (((givePowerBack_spares hw s).trans (leaveLists_spares _ w)).trans (enter_spares hw _ .ending
      (fun x =>
        { x with
          holdSet := {}
          unlocked := false
          brakeOrdered := false
          endBrakeSeen := false
          endLockSeen := false
          endLock := seg.lock && x.cfg.lockst.isSome }))).trans (startTbrk_spares hw _)
  exact Spares.ite (fun _ => h.trans (startTlock_spares hw _)) fun _ => h

theorem switchSegment_spares (s : State) : Spares m s (s.switchSegment w) := by
  unfold State.switchSegment
  have h := (((take_spares hw s).trans (adjustGrant_spares hw _)).trans (modMv_spares _ hw _)).trans
    (requestPath_spares hw (((s.take w).adjustGrant w).beginSegment w)
      (((s.take w).adjustGrant w).beginSegment w |>.mv w).execPath)
  refine Spares.ite (fun _ => h.trans ((requestPath_spares hw _ _).trans (writeImages_spares _ _))) fun _ => h.trans ?_
  exact (modMv_spares _ hw _).trans (holdMoving_spares hw _)

end Others

/-! ## Completions and wakings: a completion of another mover, and the opening tests of any -/

section Completions

variable {cp : Completion} (hcp : ∀ w o s, w ≠ m → Spares m s (cp w o s))
include hcp

theorem runningEntryWith_spares (s : State) {w : MoverNo} (hw : w ≠ m) : Spares m s (s.runningEntryWith cp w) := by
  unfold State.runningEntryWith
  refine Spares.ite (fun _ => refuseEntry_spares hw s _) fun _ => ?_
  dsimp only
  refine (Spares.foldl (fun s c => requestRule_spares s c hw) (s.unheldNeeds w (s.mv w).execPath) s).trans ?_
  generalize (s.unheldNeeds w (s.mv w).execPath).foldl (fun s c => s.requestRule c w) s = t
  have h2 : Spares m t (t.modMv w fun x =>
      { x with
        state := .running
        brakeOrdered := false
        exec := x.exec.map fun e => { e with part := { e.part with stopMark := false } } }) := modMv_spares t hw _
  refine h2.trans ?_
  generalize t.modMv w _ = u
  have h3 : Spares m u (if (!(t.mv w).hasBegun) = true then u.beginSegment w else u) :=
    Spares.ite (fun _ => modMv_spares u hw _) fun _ => .refl u
  refine h3.trans ?_
  generalize (if (!(t.mv w).hasBegun) = true then u.beginSegment w else u) = v
  have h4 := (requestPath_spares hw v (v.mv w).lookaheadPath).trans (writeImages_spares _ w)
  exact Spares.ite (fun _ => h4.trans (hcp _ _ _ hw)) fun _ => h4

theorem wakeWith_spares (s : State) {w : MoverNo} (hw : w ≠ m) : Spares m s (s.wakeWith cp w) := by
  unfold State.wakeWith
  dsimp only
  split
  · refine Spares.ite (fun _ => .refl s) fun _ => Spares.ite (fun _ => runningEntryWith_spares hcp s hw) fun _ => ?_
    exact (cancelTbrk_spares hw s).trans (Spares.ite (fun _ => enterReleasing_spares hw _) fun _ => unlock_spares hw _)
  · exact enterAwaitPower_spares hw s
  · exact .refl s

theorem removeReasonsWith_spares (s : State) {w : MoverNo} (hw : w ≠ m) (rs : List HoldReason) :
    Spares m s (s.removeReasonsWith cp w rs) := by
  unfold State.removeReasonsWith
  have h := modMv_spares s hw fun x => { x with holdSet := rs.foldl HoldSet.remove (s.mv w).holdSet }
  exact Spares.ite (fun _ => h.trans (wakeWith_spares hcp _ hw)) fun _ => h

/-- An opening test wakes movers of the rule's list, so never mover m: it may be a test of mover m itself. -/
theorem openingTestWith_spares (w : MoverNo) (s : State) (c : RuleNo) : Spares m s (State.openingTestWith cp w s c) := by
  unfold State.openingTestWith
  split
  · exact .refl s
  · rename_i r hr
    split
    · exact .refl s
    · rename_i st _
      intro hs
      have hm := hs.2 c r hr
      have h1 := setRule_spares (m := m) s c r { r with state := st, waiting := [] } hr fun _ => List.not_mem_nil
      refine Spares.trans h1 ?_ hs
      generalize s.setRule c _ = t
      generalize r.waiting = l at hm
      clear hr hs
      induction l generalizing t with
      | nil => exact .refl t
      | cons a l ih =>
        exact (removeReasonsWith_spares hcp t (fun e => hm (e ▸ List.mem_cons_self)) _).trans
          (ih _ fun k => hm (List.mem_cons_of_mem _ k))

theorem openingTestsWith_spares (s : State) (w : MoverNo) : Spares m s (s.openingTestsWith cp w) :=
  Spares.foldl (fun s c => openingTestWith_spares hcp w s c) _ s

end Completions

theorem completeN_spares (n : Nat) : ∀ w o s, w ≠ m → Spares m s (State.completeN n w o s) := by
  induction n with
  | zero => exact fun _ _ s _ => .refl s
  | succ n ih =>
    intro w o s hw
    unfold State.completeN
    split
    · exact .refl s
    · refine (logExecuting_spares hw s o none).trans ?_
      refine Spares.ite (fun _ => (enterEnding_spares hw _ _).trans (openingTestsWith_spares ih _ _)) fun _ => ?_
      have h := (switchSegment_spares hw (s.logExecuting w o none)).trans (openingTestsWith_spares ih _ w)
      exact Spares.ite (fun _ => h.trans (ih _ _ _ hw)) fun _ => h

/-- The opening tests of any mover, m itself among them, spare a mover that waits nowhere. -/
theorem openingTests_spares (s : State) (w : MoverNo) : Spares m s (s.openingTests w) :=
  openingTestsWith_spares (completeN_spares _) s w

/-! ## The mover's own entries: what stands after the opening tests of a mover that waits nowhere -/

/-- A mover that waits for no power stands on no list once it has left the rules' lists. -/
theorem leaveLists_spared (s : State) (m : MoverNo) (h : s.isWaiting m = false) : (s.leaveLists m).spared m := by
  have key : ∀ (l : List RuleNo) (t : State), t.power = s.power →
      (∀ c r, c ∉ l → t.rule c = some r → m ∉ r.waiting) →
      (l.foldl (fun s c => s.modRule c fun r => { r with waiting := r.waiting.filter fun w => w != m }) t).spared m := by
    intro l
    induction l with
    | nil =>
      intro t hp hr
      exact ⟨by simpa [State.isWaiting, hp] using h, fun c r => hr c r (by simp)⟩
    | cons a l ih =>
      intro t hp hr
      refine ih _ hp fun c r hc hcr => ?_
      by_cases e : c = a
      · subst e
        simp only [State.modRule, State.setRule_rule, Option.map_eq_some_iff] at hcr
        obtain ⟨r', -, rfl⟩ := hcr
        simp
      · refine hr c r (by simp [e, hc]) ?_
        rw [← hcr]
        exact (State.setRule_rule_ne t e _).symm
  exact key _ s rfl fun c _ hc => absurd (List.mem_finRange c) hc

end Sys2Proof.Machine
end

