-- ==== Sys2Proof/Tests/Slice0.lean ====
section
/-! SUPPORT. Tests on small states: the manual's worked figures, the well-formedness checks, and for each statement with hypotheses a
witness that meets them. Each test names the chapter its figures come from. -/

namespace Sys2Proof.Tests

open Sys2Proof Sys2Proof.Machine

-- The tests are many and short: one after another they take less memory than at once.
set_option Elab.async false

/-! ## The plant of chapter 11 -/

/-- A command line of tag 7. -/
def line (ts : List String) : CommandLine := ⟨['7'], ts.map String.toList⟩

/-- The fields of a line. -/
def fieldsOf (ln : CommandLine) : List Field := (parseFields ln.tokens).getD []

/-- A roof leaf (11). -/
def leaf (tracks : List StationNo) (offs : List Int) (lock : StationNo) : MoverRec :=
  { tracks := tracks, offs := offs, lo := 0, hi := 20000, ovt := 20, vmax := 150, amax := 20, dmax := 25, vcreep := 20, prated := 400
    vrated := 150, prio := 2, cls := .exposed, lockst := some lock, skw := 25, skt := 40, skh := 5, fol := 50, kc := 32, tcl := 10 }

/-- The pitch tray (11). -/
def tray : MoverRec :=
  { tracks := [8, 9, 10, 11], offs := [0, 0, 0, 0], lo := 1000, hi := 100000, vmax := 60, amax := 10, dmax := 10, vcreep := 15
    prated := 300, vrated := 60, prio := 4, skw := 25, skt := 40, skh := 5, fol := 50, kc := 32, tcl := 10 }

/-- The stand gate (11). -/
def gate : MoverRec :=
  { tracks := [12, 13], offs := [0, 0], lo := 0, hi := 12000, vmax := 100, amax := 10, dmax := 10, vcreep := 10, prated := 120
    vrated := 100, prio := 3, skw := 25, skt := 40, skh := 5, fol := 50, kc := 32, tcl := 10 }

/-- A mover at rest in IDLE at p. -/
def resting (r : MoverRec) (p : Int) : Mover := { record := some r, state := .idle, p := p, marks := r.tracks.map fun _ => false }

/-- An ONLINE station with a report. -/
def station (l : LineId) (addr : Nat) (t : StationType) (owner : Option MoverNo) (source : Bool) (r : Report) : Option Station :=
  some
    { line := l, addr := addr, type := t, owner := owner, source := source, health := .online, misses := 0, report := some ⟨r, 5⟩
      image := t.freeImage }

/-- A drive at a position with its brake applied. -/
def braked (p : Int) : Report := .drive p .ready .applied

/-- A polling line between its rounds. -/
def polling (per tmo : Nat) : LineCtl :=
  { polling := true, record := some ⟨per, tmo, 2⟩, current := ⟨per, tmo, 2⟩, round := 41, period := some 3 }

/-- The plant: leaves M0 and M1 on line A with their locks withdrawn, tray M6 and gate M7 on line B, sources S4 and S5, 1,000 kW. -/
def plant : State :=
  { timebase := 1000
    movers :=
      #v[resting (leaf [0, 1] [0, 0] 6) 0, resting (leaf [2, 3] [400, -1500] 7) 0, {}, {}, {}, {}, resting tray 1000000,
        resting gate 0]
    power := { budget := 1000 }
    wx :=
      { sources := [4, 5], thresholds := some ⟨100, 180, 250, 300⟩, figure := some ⟨92, 140⟩, derate := 100, hold := .clear
        triggers :=
          (Vector.replicate 8 {}).set 0
            { masked := false, plan := some { tag := 900, kind := .move 0 (some 120) none none, lock := true } } }
    lineA := polling 20 5
    lineB := polling 40 8
    stations :=
      #v[station .A 1 .drive (some 0) false (braked 0), station .A 2 .drive (some 0) false (braked 0),
        station .A 3 .drive (some 1) false (braked 400), station .A 4 .drive (some 1) false (braked (-1500)),
        station .A 5 .weather none true (.weather 92 140 false), station .A 6 .weather none true (.weather 88 131 false),
        station .A 7 .lock (some 0) false (.lock .withdrawn), station .A 8 .lock (some 1) false (.lock .withdrawn),
        station .B 1 .drive (some 6) false (braked 1000000), station .B 2 .drive (some 6) false (braked 1000000),
        station .B 3 .drive (some 6) false (braked 1000000), station .B 4 .drive (some 6) false (braked 1000000),
        station .B 5 .drive (some 7) false (braked 0), station .B 6 .drive (some 7) false (braked 0), none, none, none, none,
        none, none, none, none, none, none]
    link := { receiver := .between false, tx := some { text := [], carriesZ := false, left := 1000 }, firstLine := false } }

/-- A state with mover m changed. -/
def withMover (s : State) (m : MoverNo) (f : Mover → Mover) : State := s.modMv m f

/-- A segment of mover m in a slot. -/
def segment (m : MoverNo) (slot : SlotNo) (tag : Nat) (kind : SegKind) : Segment :=
  { slot := slot, mover := m, tag := tag, kind := kind, lock := false, clamps := [], origin := .staged }

/-- The leaf's opening MOVE (03). -/
def opening (m : MoverNo) : Segment := segment m 0 101 (.move 12000 150 20 25)

/-- A MOVE outward under way. -/
def begunAt (start : Int) : ExecPart := { startTime := some 900, pathStart := some start, dir := some .outward }

/-- Leaf M0 in a state with its opening MOVE executing and the grant it asks for. -/
def leafIn (st : MoverState) (grant : Nat) : State :=
  (withMover plant 0 fun x =>
    { x with state := st, dir := some .outward, exec := some ⟨opening 0, begunAt 0⟩ }).setGrant 0 grant

/-- A command's next state passes a test. -/
def gives (c : Instr) (s : State) (test : State → Bool) : Bool :=
  match exec c s with
  | .next t => test t
  | _ => false

/-- The last reply formed. -/
def lastReply (s : State) : Option Reply := s.link.replies.getLast?

/-- A reply is OK with these fields. -/
def okWith (fs : List (String × String)) (r : Option Reply) : Bool :=
  r == some { tag := ['7'], form := .ok, fields := fs.map fun f => ⟨f.1, f.2.toList⟩, full := false }

/-- The executed line is refused with a reason. -/
def refusedWith (x : Reason) (s : State) : Bool := lastReply s == some (refusal ['7'] x)

/-- The update of a mover: its marks set, then TRACK_SET_COMPLETE. -/
def updated (m : MoverNo) (s : State) (test : State → Bool) : Bool :=
  gives (.trackSetComplete m) (withMover s m fun x => { x with marks := x.cfg.tracks.map fun _ => true }) test

/-- The tracks of mover m report this position, state and brake. -/
def tracksAt (s : State) (m : MoverNo) (p : Int) (d : DriveState) (b : BrakeReport) : State :=
  (s.mv m).cfg.tracks.foldl
    (fun s st => s.modStn st fun x => { x with health := .online, report := some ⟨.drive p d b, 9⟩ }) s

/-! ## Pins -/

/-- R1, R176: power comes with RESET high, and the first line will carry Z. -/
theorem test_power_on : gives (.powerOn false false true) plant (fun t => t == { State.reset with pins := { fastLink := true } }) = true := by
  decide +kernel

/-- 00: RESET low clears the part. -/
theorem test_reset_assert : gives .resetAssert plant (fun t => t.pins.resetLow && t.pool == {} && t.stn 0 == none) = true := by
  decide +kernel

/-- R161: the link rate is latched at the release. -/
theorem test_reset_release :
    gives (.resetRelease true) { State.reset with pins := { resetLow := true } }
      (fun t => !t.pins.resetLow && t.pins.fastLink) = true := by
  decide +kernel

/-- 01, Emergency Stop: a running leaf is cut, gives its 400 kW back, and is ordered to stop with the brake as it stands. -/
theorem test_stopin_opening :
    gives .stopinOpening (leafIn .running 400)
      (fun t =>
        (t.mv 0).state == .stopping && t.grant 0 == 0 && (t.mv 0).tstop == some 15000 &&
        t.pool.log.map (fun r => r.outcome) == [.cut] && (t.stn 0).map Station.image == some (.drive 0 .apply .quick)) = true := by
  decide +kernel

/-- R20: the closing sends STOP_CLOSED and moves no mover. -/
theorem test_stopin_closing :
    gives .stopinClosing { leafIn .running 400 with pins := { stopOpen := true } }
      (fun t =>
        !t.pins.stopOpen && t.movers == (leafIn .running 400).movers &&
        t.notices.safety.queue == [⟨.stopClosed, 1000⟩]) = true := by
  decide +kernel

/-! ## The link (09) -/

/-- 09, Layouts: the XOR of "#7 BEAT " is 0x06, and with no flag present the reply is #7 OK S=- *73. -/
theorem test_beat_line_and_reply :
    commandText "BEAT".toList (line []) = "#7 BEAT *06".toList ∧
      plant.closeLine (accepted (line []) []).parts = "#7 OK S=- *73\r\n".toList := by
  decide +kernel

/-- 09: the characters of the example bring the line into the input buffer. -/
theorem test_line_received :
    gives (.lineReceived (asReceived "#7 BEAT *06\r\n".toList)) plant
      (fun t => t.link.inputBuffer == [⟨"BEAT".toList, line []⟩] && t.link.errors == 0) = true := by
  decide +kernel

/-- R162, R163: a line whose checksum is wrong is counted and discarded. -/
theorem test_damaged_line_counted :
    gives (.lineReceived (asReceived "#7 BEAT *07\r\n".toList)) plant
      (fun t => t.link.inputBuffer == [] && t.link.errors == 1) = true := by
  decide +kernel

/-- R162: a # begins a line; one within a line damages the earlier one. -/
theorem test_hash_begins_a_line :
    gives (.characterArrival ⟨0x23, true⟩) plant (fun t => t.link.receiver == .within ['#'] false false && t.link.errors == 0) = true ∧
      gives (.characterArrival ⟨0x23, true⟩) { plant with link := { plant.link with receiver := .within "#7 BE".toList false false } }
        (fun t => t.link.receiver == .within ['#'] false false && t.link.errors == 1) = true := by
  decide +kernel

/-- R165: a verb outside the catalogue is refused with UNKNOWN. -/
theorem test_unknown_verb : gives (.unknownVerb "OPEN".toList (line [])) plant (refusedWith .unknown) = true := by decide +kernel

/-- R171: SUPERVISE ON=1 starts the timer with UP. -/
theorem test_supervise :
    gives (.supervise (line ["ON=1", "UP=2000"])) plant
      (fun t =>
        t.link.sup == { on := true, up := some 2000, low := some 0, timer := some 2000 } &&
        okWith [("SUP", "1"), ("UP", "2000"), ("LOW", "0")] (lastReply t)) = true := by
  decide +kernel

/-- R172: an executed BEAT is answered OK and changes nothing. -/
theorem test_beat : gives (.beat (line [])) plant (fun t => okWith [] (lastReply t) && t.movers == plant.movers) = true := by
  decide +kernel

/-- R174: the reply shows the count that the command clears. -/
theorem test_linkstat :
    gives (.linkstat (line [])) { plant with link := { plant.link with errors := 3 } }
      (fun t =>
        t.link.errors == 0 &&
        okWith
          [("SUP", "0"), ("MODE", "-"), ("UP", "-"), ("LOW", "-"), ("LEFT", "-"), ("LOST", "0"), ("CAUSE", "NONE"), ("ERR", "3"),
           ("BUF", "0")] (lastReply t)) = true := by
  decide +kernel

/-- R175: a mover not at rest refuses CLEARALL; at rest the blocks return to their power-up values and the timebase stays. -/
theorem test_clearall :
    gives (.clearall (line [])) (leafIn .running 400) (refusedWith .busy) = true ∧
      gives (.clearall (line [])) plant (fun t => t.timebase == 1000 && t.movers == State.reset.movers && t.stn 0 == none) = true := by
  decide +kernel

/-- R183, R184: a named class is emptied and disabled. -/
theorem test_setnote :
    gives (.setnote (line ["LINE=0", "LOGTHR=4"])) plant
      (fun t =>
        !t.notices.line.enabled && t.notices.logThreshold == 4 &&
        okWith [("SAFETY", "1"), ("MOTION", "1"), ("WEATHER", "1"), ("LINE", "0"), ("LOGTHR", "4")] (lastReply t)) = true := by
  decide +kernel

/-- R168, R170: at the end of a line the oldest reply is sent; the waiting notice shows as N (0x73 ^ 0x2D ^ 0x4E is 0x10). -/
theorem test_transmit_line_end :
    gives .transmitLineEnd
      { plant with link := { plant.link with replies := [accepted (line []) []] }, notices := { safety := { queue := [⟨.stopOpen, 9⟩] } } }
      (fun t => t.link.tx.map TxLine.text == some "#7 OK S=N *10\r\n".toList && t.notices.safety.queue.length == 1) = true := by
  decide +kernel

/-- R173: the expiry sets the flag and posts LINK to the four configured movers. -/
theorem test_supervision_expiry :
    gives .supervisionTimerExpiry { plant with link := { plant.link with sup := { on := true, up := some 100, timer := some 0 } } }
      (fun t =>
        t.link.sup.lost == some .timeout && t.link.sup.timer == none &&
        t.posted == [.holdReasonAddition 0 .link, .holdReasonAddition 1 .link, .holdReasonAddition 6 .link,
          .holdReasonAddition 7 .link]) = true := by
  decide +kernel

/-! ## The Mover Sequencers (01) -/

/-- The plant before the gate is configured. -/
def ungated : State :=
  (((withMover plant 7 fun _ => {}).modStn 12 fun x => { x with owner := none }).modStn 13 fun x => { x with owner := none })

/-- The DEFMOVER line of the gate. -/
def gateLine : CommandLine :=
  line ["M=7", "TRACKS=12,13", "LO=0", "HI=12000", "VMAX=100", "AMAX=10", "DMAX=10", "VCREEP=10", "PRATED=120", "VRATED=100", "PRIO=3",
    "CLASS=SHELTERED", "SKW=25", "SKT=40", "SKH=5", "FOL=50", "KC=32", "TCL=10"]

/-- R2, R4, R8: the record with its defaults, IDLE at LO with the position unset, and T of line B. -/
theorem test_defmover :
    gives (.defmover gateLine) ungated
      (fun t =>
        (t.mv 7).record == some gate && (t.mv 7).state == .idle && (t.mv 7).p == 0 && (t.mv 7).positionUnset &&
        (t.stn 12).bind Station.owner == some 7 && okWith [("M", "7"), ("T", "40")] (lastReply t)) = true := by
  decide +kernel

/-- R3: a track of another mover is refused with CONFLICT. -/
theorem test_defmover_conflict :
    gives (.defmover gateLine) (ungated.modStn 12 fun x => { x with owner := some 6 }) (refusedWith .conflict) = true := by
  decide +kernel

/-- The leaf with its opening MOVE staged. -/
def leafStaged : State := withMover plant 0 fun x => { x with chain := [opening 0] }

/-- 05: GO M=0 is granted 400 in full, and the pointer moves to M1; with the lock withdrawn the mover is in RELEASING (R10). -/
theorem test_go :
    gives (.go (line ["M=0"])) leafStaged
      (fun t =>
        t.grant 0 == 400 && t.freeBudget == 600 && t.power.pointer == 1 && (t.mv 0).state == .releasing &&
        okWith [("STATE", "RELEASING"), ("EXEC", "101")] (lastReply t)) = true := by
  decide +kernel

/-- 05: with 0 free and a minimum of 12 the gate waits, with POWER_WAIT M=7 REQ=120 MIN=12 FREE=0. -/
theorem test_go_waits :
    gives (.go (line ["M=7"]))
      ((withMover plant 7 fun x => { x with chain := [segment 7 1 700 (.move 12000 100 10 10)] }).setGrant 0 1000)
      (fun t =>
        (t.mv 7).state == .awaitPower && t.power.waiting == [⟨7, 120, 12⟩] &&
        t.notices.motion.queue == [⟨.powerWait 7 120 12 0, 1000⟩]) = true := by
  decide +kernel

/-- 01, A Leaf Goes, Holds and Rests: HOLD in RUNNING, before the brake order. -/
theorem test_hold :
    gives (.hold (line ["M=0"])) (leafIn .running 400)
      (fun t => (t.mv 0).state == .holding && !(t.mv 0).brakeOrdered && (t.mv 0).holdSet == { operator := true }) = true := by
  decide +kernel

/-- 01: from HELD, RESUME asks for power again, and the withdrawn lock leads to RELEASING at the same event. -/
theorem test_resume :
    gives (.resume (line ["M=0"])) (withMover (leafIn .held 0) 0 fun x => { x with holdSet := { operator := true } })
      (fun t => (t.mv 0).state == .releasing && t.grant 0 == 400 && (t.mv 0).holdSet == {}) = true := by
  decide +kernel

/-- R18: STOP in HELD logs the executing segment CUT and comes to IDLE. -/
theorem test_stop :
    gives (.stop (line ["M=0"])) (leafIn .held 0)
      (fun t => (t.mv 0).state == .idle && (t.mv 0).exec == none && t.pool.log.map (fun r => r.outcome) == [.cut]) = true := by
  decide +kernel

/-- R20: ESTOP changes nothing of a mover in IDLE. -/
theorem test_estop :
    gives (.estop (line ["M=ALL"])) (leafIn .running 400) (fun t => (t.mv 0).state == .stopping && (t.mv 6).state == .idle) = true := by
  decide +kernel

/-- Leaf M1 after its skew trip (11): the fault stop complete, east at 7,022,000 and west at 6,980,000 µm. -/
def tripped : State :=
  ((withMover plant 1 fun x =>
      { x with
        state := .fault, p := 6999000
        fault := some { primary := .skew, time := 900, p := 6999000, mean := none, secondary := [], stopComplete := true } }).modStn 2
      fun x => { x with report := some ⟨braked 7022400, 9⟩ }).modStn 3 fun x => { x with report := some ⟨braked 6978500, 9⟩ }

/-- 11, A Skew Trip: ACKFAULT sets p to floor((7,022,000 + 6,980,000) / 2) = 7,001,000 µm. -/
theorem test_ackfault :
    gives (.ackfault (line ["M=1"])) tripped
      (fun t => (t.mv 1).state == .idle && (t.mv 1).p == 7001000 && (t.mv 1).fault == none) = true := by
  decide +kernel

/-- 11: ACKFAULT before the stop is complete is refused with BUSY. -/
theorem test_ackfault_busy :
    gives (.ackfault (line ["M=1"]))
      (withMover tripped 1 fun x => { x with fault := x.fault.map fun f => { f with stopComplete := false } })
      (refusedWith .busy) = true := by
  decide +kernel

/-- R29: a mover without a record answers UNCONFIGURED alone. -/
theorem test_moverstat :
    gives (.moverstat (line ["M=2"])) plant (fun t => okWith [("STATE", "UNCONFIGURED")] (lastReply t)) = true := by
  decide +kernel

/-- R13, R14: a reason that reaches RELEASING gives the brake order at once. -/
theorem test_hold_reason_addition :
    gives (.holdReasonAddition 0 .wind) (leafIn .releasing 400)
      (fun t => (t.mv 0).state == .holding && (t.mv 0).brakeOrdered && (t.mv 0).tbrk == some 2000) = true := by
  decide +kernel

/-- 11, Rain: the removal of WIND from HELD asks for 400 kW again. -/
theorem test_hold_reason_removal :
    gives (.holdReasonRemoval 0 .wind) (withMover (leafIn .held 0) 0 fun x => { x with holdSet := { wind := true } })
      (fun t => (t.mv 0).state == .releasing && t.grant 0 == 400) = true := by
  decide +kernel

/-- R25: TLOCK in UNLOCKING is a LOCK fault. -/
theorem test_tlock_expiry :
    gives (.tlockExpiry 0) (withMover (leafIn .unlocking 400) 0 fun x => { x with tlock := some 0 })
      (fun t =>
        (t.mv 0).state == .fault && (t.mv 0).fault.map FaultRec.primary == some .lock && t.grant 0 == 0 &&
        t.notices.safety.queue == [⟨.fault 0 .lock, 1000⟩]) = true := by
  decide +kernel

/-- R25: TBRK in RELEASING is a BRAKE fault. -/
theorem test_tbrk_expiry :
    gives (.tbrkExpiry 0) (withMover (leafIn .releasing 400) 0 fun x => { x with tbrk := some 0 })
      (fun t => (t.mv 0).fault.map FaultRec.primary == some .brake) = true := by
  decide +kernel

/-- R27: TSTOP in FAULT completes the stop unconfirmed. -/
theorem test_tstop_expiry :
    gives (.tstopExpiry 1)
      (withMover tripped 1 fun x =>
        { x with tstop := some 0, fault := x.fault.map fun f => { f with stopComplete := false } })
      (fun t => (t.mv 1).fault.map FaultRec.secondary == some [.stopUnconfirmed] && (t.mv 1).faultStopComplete) = true := by
  decide +kernel

/-- A mover executing a segment of a kind. -/
def executing (s : State) (m : MoverNo) (kind : SegKind) (chain : List Segment) : State :=
  withMover s m fun x =>
    { x with
      state := .running, chain := chain
      exec := some ⟨segment m 9 701 kind, { startTime := some 900, pathStart := some x.p }⟩ }

/-- 02: at the dwell's expiry TAG 701 is logged DWELLED and TAG 702 is taken. -/
theorem test_dwell_expiry :
    gives (.dwellExpiry 7) (executing plant 7 (.dwell 5000) [segment 7 2 702 (.move 9000 100 10 10)])
      (fun t =>
        t.pool.log.map (fun r => (r.seg.tag, r.outcome)) == [(701, .dwelled)] && t.grant 7 == 120 &&
        ((t.mv 7).exec.map fun e => e.seg.tag) == some 702) = true := by
  decide +kernel

/-- R91: the alignment timer's expiry is an ALIGN fault. -/
theorem test_align_expiry :
    gives (.alignTimerExpiry 1) (withMover (executing plant 1 .align []) 1 fun x => { x with alignLeft := some 0 })
      (fun t => (t.mv 1).fault.map FaultRec.primary == some .align) = true := by
  decide +kernel

/-! ## The profile and the trim (03, 04) -/

/-- 03: the braking velocities of the worked figures. -/
theorem test_braking_velocities :
    brakingVelocity 0 25 447000 = 149499 ∧ brakingVelocity 0 25 60 = 1732 ∧ brakingVelocity 0 25 26 = 1140 ∧
      brakingVelocity 0 25 3 = 387 ∧ brakingVelocity 90000 25 1000 = 90277 ∧ brakingVelocity 90000 25 100000 = 114455 := by
  decide +kernel

/-- Leaf M0 running at p with v and residue, its tracks where it is. -/
def leafAt (p : Int) (v residue : Nat) (chain : List Segment) : State :=
  tracksAt (withMover (leafIn .running 400) 0 fun x => { x with p := p, v := v, residue := residue, chain := chain }) 0 p .running
    .released

/-- 03: the first two updates of the last three: 60 µm to go, then 26. -/
theorem test_track_set_complete :
    updated 0 (leafAt 11999940 1500 300 []) (fun t =>
        (t.mv 0).p == 11999974 && (t.mv 0).v == 1732 && (t.mv 0).residue == 940 &&
        ((t.mv 0).exec.map fun e => e.part.stopMark) == some true) = true ∧
      updated 0 (leafAt 11999974 1732 940 []) (fun t => (t.mv 0).p == 11999997 && (t.mv 0).v == 1140 && (t.mv 0).residue == 740) =
        true := by
  decide +kernel

/-- 03: blending, TAG 120 ARRIVED at 90,000 µm/s and TAG 121 taken in the same update. -/
theorem test_blended_arrival :
    updated 0 (leafAt 11999000 90500 0 [segment 0 1 121 (.move 14000 90 20 25)]) (fun t =>
        (t.mv 0).p == 12000000 && (t.mv 0).v == 90000 && (t.mv 0).residue == 0 && (t.mv 0).state == .running &&
        ((t.mv 0).exec.map fun e => (e.seg.tag, e.part.pathStart)) == some (121, some 12000000) && t.grant 0 == 240) = true := by
  decide +kernel

/-- 03, Wind: w = 34 caps at 51,000, and the update gives 149,500 with the derated mark. -/
theorem test_wind_cap :
    let s : State := { leafAt 5000000 150000 0 [] with wx := { plant.wx with derate := 34 } }
    s.speedCap 0 150 = 51000 ∧
      updated 0 s (fun t => (t.mv 0).v == 149500 && ((t.mv 0).exec.map fun e => e.part.derated) == some true) = true := by
  decide +kernel

/-- 04: the trim figures of a running leaf, SKEW_WARN at 30 mm, v 149,500 and the setpoints 139,500 and 159,500. -/
theorem test_trim :
    let s := (executing plant 1 (.move 9000 150 20 25) []).setGrant 1 400
    let s := withMover s 1 fun x =>
      { x with
        p := 5000000, v := 150000, dir := some .outward
        exec := x.exec.map fun e => { e with part := { begunAt 4000000 with peakSkew := 22000 } } }
    let s := s.modStn 2 fun x => { x with report := some ⟨.drive 5020400 .running .released, 9⟩ }
    let s := s.modStn 3 fun x => { x with report := some ⟨.drive 4988500 .running .released, 9⟩ }
    updated 1 s (fun t =>
      (t.mv 1).trim ==
        some
          { measured := [5020000, 4990000], errors := [-20000, 10000], corrections := [-10000, 10000], mean := 5005000
            skew := 30000 } &&
      (t.mv 1).v == 149500 && (t.stn 2).map Station.image == some (.drive 139500 .release .normal) &&
      (t.stn 3).map Station.image == some (.drive 159500 .release .normal) &&
      t.notices.motion.queue == [⟨.skewWarn 1 30, 1000⟩]) = true := by
  decide +kernel

/-! ## The Segment Pool (02) -/

/-- 02: the first slot staged after power-up is 0. -/
theorem test_stage :
    gives (.stage (line ["M=7", "TAG=700", "KIND=MOVE", "TO=12000"])) plant
      (fun t => t.pool.free.head? == some 1 && okWith [("SLOT", "0"), ("CHAIN", "1"), ("FREE", "255")] (lastReply t)) = true := by
  decide +kernel

/-- R40: values beyond the record are clamped, and the reply names them. -/
theorem test_stage_clamps :
    gives (.stage (line ["M=7", "TAG=700", "KIND=MOVE", "TO=12001", "V=200"])) plant
      (fun t =>
        (t.mv 7).chain.map Segment.kind == [.move 12000 100 10 10] &&
        (lastReply t).map Reply.form == some (.clamped [.target, .v])) = true := by
  decide +kernel

/-- R48: FLUSH logs the pending segment. -/
theorem test_flush :
    gives (.flush (line ["M=0"])) leafStaged
      (fun t =>
        (t.mv 0).chain == [] && t.pool.log.map (fun r => r.outcome) == [.flushed] && okWith [("FLUSHED", "1")] (lastReply t)) = true := by
  decide +kernel

/-- A logged segment in a slot. -/
def logged (slot : SlotNo) : LogRecord :=
  { seg := segment 7 slot 700 (.dwell 5), part := none, outcome := .flushed, endTime := 5, endPos := none, faultKind := none }

/-- 02: after LOGREAD N=2 the free list reads 1, 0, 5 from the top. -/
theorem test_logread :
    gives (.logread (line ["N=2"])) { plant with pool := { free := [5, 6], log := [logged 0, logged 1, logged 2] } }
      (fun t => t.pool.free == [1, 0, 5, 6] && t.pool.log.map (fun r => r.seg.slot) == [2]) = true := by
  decide +kernel

/-- R52: the example record of the log. -/
theorem test_log_record :
    LogRecord.text
        { seg := segment 6 17 230 (.move 100000 60 10 10)
          part := some { startTime := some 10400, peakSkew := 3999 }
          outcome := .cut, endTime := 12660, endPos := some 45210800, faultKind := none } =
      "17/6/230/MOVE/CUT/10400/12660/45210/3/0/-/-/STAGED".toList := by
  decide +kernel

/-- R54 right after power-up. -/
theorem test_poolstat :
    gives (.poolstat (line [])) State.reset (fun t => t.link.tx.map TxLine.text ==
      some (State.reset.closeLine ("#7".toList :: "OK".toList ::
        ["FREE=256", "PEND=0", "EXEC=0", "LOG=0", "CHAINS=-,-,-,-,-,-,-,-", "LOGTHR=8"].map String.toList))) = true := by
  decide +kernel

/-! ## The Power Arbiter (05) -/

/-- R94: the table of request and minimum amounts. -/
theorem test_request_amounts :
    let leaf := leaf [0, 1] [0, 0] 6
    requestAmount leaf (.move 1 150 1 1) = 400 ∧ minimumAmount leaf (.move 1 150 1 1) = 54 ∧
      requestAmount leaf (.move 1 90 1 1) = 240 ∧ requestAmount leaf .align = 54 ∧ requestAmount tray (.move 1 60 1 1) = 300 ∧
      minimumAmount tray (.move 1 60 1 1) = 75 ∧ requestAmount gate (.move 1 100 1 1) = 120 ∧
      minimumAmount gate (.move 1 100 1 1) = 12 := by
  decide +kernel

/-- R103: the power speeds of the worked sequences. -/
theorem test_power_speeds :
    (plant.setGrant 6 200).powerSpeed 6 = 40000 ∧ (plant.setGrant 1 300).powerSpeed 1 = 112500 ∧
      (plant.setGrant 7 40).powerSpeed 7 = 33333 ∧ (plant.setGrant 1 260).powerSpeed 1 = 97500 := by
  decide +kernel

/-- 05, PRIORITY Blocks, ROTATE Skips: M1 and M7 wait and 40 kW are free. -/
def contended (mode : PowerMode) : State :=
  let s := withMover (withMover plant 1 fun x => { x with state := .awaitPower }) 7 fun x => { x with state := .awaitPower }
  (({ s with power := { budget := 600, mode := mode, waiting := [⟨1, 400, 54⟩, ⟨7, 120, 12⟩], pointer := 1 } } : State).setGrant 6
    300).setGrant 0 260

/-- 05: with 40 free PRIORITY grants none; ROTATE grants M7 its min(120, 40), and the pointer moves to M0. -/
theorem test_arbitration :
    (contended .priority).arbitrate = contended .priority ∧ (contended .rotate).arbitrate.grant 7 = 40 ∧
      (contended .rotate).arbitrate.power.waiting = [⟨1, 400, 54⟩] ∧ (contended .rotate).arbitrate.power.pointer = 0 := by
  decide +kernel

/-- R104: a budget below the granted sum is refused; R105: a raised one is arbitrated. -/
theorem test_setpower :
    gives (.setpower (line ["BUDGET=559"])) (contended .priority) (refusedWith .budgetInUse) = true ∧
      gives (.setpower (line ["BUDGET=860"])) (contended .priority) (fun t => t.grant 1 == 300 && t.grant 7 == 0) = true := by
  decide +kernel

/-- R107: the list in order, and the head in PRIORITY. -/
theorem test_powerstat :
    gives (.powerstat (line [])) (contended .priority)
      (fun t =>
        okWith
          [("BUDGET", "600"), ("MODE", "PRIORITY"), ("USED", "560"), ("FREE", "40"), ("GRANTS", "260,0,-,-,-,-,300,0"),
           ("WAIT", "M1/400/54,M7/120/12"), ("HEAD", "M1"), ("ROT", "M1")] (lastReply t)) = true := by
  decide +kernel

/-! ## The Clearance Table (06) -/

/-- Rule C0 of chapter 06 in a state. -/
def ruleZero (st : RuleState) (waiting : List MoverNo) : Rule :=
  { g := 6, zlo := 3000, zhi := 97000, k := 7, rlo := 11950, rhi := 12050, state := st, waiting := waiting }

/-- 06: with the tray in the bowl and the gate shut, C0 starts RELEASED. -/
theorem test_defrule :
    gives (.defrule (line ["C=0", "G=6", "ZLO=3000", "ZHI=97000", "K=7", "RLO=11950", "RHI=12050"])) plant
      (fun t => t.rule 0 == some (ruleZero .released []) && okWith [("C", "0"), ("STATE", "RELEASED")] (lastReply t)) = true := by
  decide +kernel

/-- 06: the holder of a RELEASED rule is its K. -/
theorem test_rulestat :
    gives (.rulestat (line [])) (plant.setRule 0 (some (ruleZero .released [6])))
      (fun t => okWith [("RULES", "C0/RELEASED/M7")] (lastReply t)) = true := by
  decide +kernel

/-- 06: the tray's entry test meets the RELEASED rule: refused, in HOLDING with CLEARANCE/C0 and the brake order given. -/
theorem test_entry_refused :
    let s := plant.setRule 0 (some (ruleZero .released []))
    let s := withMover s 6 fun x => { x with state := .releasing, exec := some ⟨segment 6 3 600 (.move 100000 60 10 10), {}⟩ }
    updated 6 (tracksAt s 6 1000000 .ready .released) (fun t =>
      (t.mv 6).state == .holding && (t.mv 6).brakeOrdered && (t.mv 6).holdSet == { clearance := [0] } &&
      t.rule 0 == some ((ruleZero .released [6]).refuse 6) && t.notices.motion.queue == [⟨.clearanceWait 6 0 true (some 7), 1000⟩]) = true := by
  decide +kernel

/-! ## The Weather Monitor (07) -/

/-- 07: the derate percents of the worked figures. -/
theorem test_derate :
    deratePercent .clear ⟨100, 180, 250, 300⟩ (some ⟨153, 210⟩) = 34 ∧ deratePercent .clear ⟨100, 180, 250, 300⟩ (some ⟨170, 238⟩) = 13 ∧
      deratePercent .clear ⟨100, 180, 250, 300⟩ (some ⟨130, 190⟩) = 63 ∧
      deratePercent .engaged ⟨100, 180, 250, 300⟩ (some ⟨92, 140⟩) = 0 := by
  decide +kernel

/-- The plant with S4 reporting. -/
def reported (mean gust : Nat) (wet : Bool) : State := plant.modStn 4 fun x => { x with report := some ⟨.weather mean gust wet, 9⟩ }

/-- 07: report 2 of the worked figures. -/
theorem test_report_arrival :
    gives (.reportArrival 4) (reported 153 210 false) (fun t => t.wx.figure == some ⟨153, 210⟩ && t.wx.derate == 34) = true := by
  decide +kernel

/-- 07: a gust of 262 engages the hold, and WIND goes to the leaves alone. -/
theorem test_gust_engages :
    gives (.reportArrival 4) (reported 170 262 false)
      (fun t =>
        t.wx.hold == .engaged && t.notices.weather.queue == [⟨.windHold .gust (some ⟨170, 262⟩), 1000⟩] &&
        t.posted == [.holdReasonAddition 0 .wind, .holdReasonAddition 1 .wind]) = true := by
  decide +kernel

/-- R130: the loss of the last live source engages the hold with NOSOURCE. -/
theorem test_source_loss :
    gives (.sourceLoss 4) ((plant.modStn 4 fun x => { x with health := .lost }).modStn 5 fun x => { x with health := .lost })
      (fun t => t.wx.hold == .engaged && t.wx.figure == none && t.wx.derate == 0) = true := by
  decide +kernel

/-- 11, Rain: at the release w becomes 100 and WIND is removed from the leaves. -/
theorem test_release_timer :
    gives .releaseTimerExpiry
      { plant with wx := { plant.wx with hold := .releasing, figure := some ⟨85, 160⟩, derate := 0, releaseTimer := some 0 } }
      (fun t =>
        t.wx.hold == .clear && t.wx.derate == 100 && t.notices.weather.queue == [⟨.windClear (some ⟨85, 160⟩), 1000⟩] &&
        t.posted == [.holdReasonRemoval 0 .wind, .holdReasonRemoval 1 .wind]) = true := by
  decide +kernel

/-- 11, Rain: the launch copies TAG 900 with A and D from the record and asks for 320 kW. -/
theorem test_trigger_firing :
    gives (.triggerFiring 0) (withMover plant 0 fun x => { x with p := 12000000 })
      (fun t =>
        t.grant 0 == 320 && ((t.mv 0).exec.map fun e => (e.seg.tag, e.seg.kind)) == some (900, .move 0 120 20 25) &&
        t.notices.motion.queue == [⟨.triggered 0 900 0 0, 1000⟩]) = true := by
  decide +kernel

/-- R127: SETWX marks its sources and forms the figure. -/
theorem test_setwx :
    gives (.setwx (line ["SRC=5", "W1=80", "W2=120", "GH=250", "REL=300"])) plant
      (fun t =>
        t.wx.figure == some ⟨88, 131⟩ && t.wx.derate == 80 && (t.stn 4).map Station.source == some false &&
        okWith [("HOLD", "CLEAR"), ("W", "80")] (lastReply t)) = true := by
  decide +kernel

/-- R135: the plan is stored as written. -/
theorem test_setplan :
    gives (.setplan (line ["M=1", "TAG=901", "KIND=MOVE", "TO=0", "V=120", "LOCK=1"])) plant
      (fun t => (t.trig 1).plan == some { tag := 901, kind := .move 0 (some 120) none none, lock := true }) = true := by
  decide +kernel

/-- R136: masking clears the pending trigger. -/
theorem test_settrig :
    gives (.settrig (line ["M=ALL", "MASK=1"])) (plant.modTrig 0 fun t => { t with pendingFlag := true })
      (fun t => (t.trig 0).masked && !(t.trig 0).pendingFlag) = true := by
  decide +kernel

/-- R140: sources, figure and plans. -/
theorem test_wxstat :
    gives (.wxstat (line [])) plant
      (fun t =>
        okWith
          [("SRC", "S4/ONLINE,S5/ONLINE"), ("LIVE", "2"), ("MEAN", "92"), ("GUST", "140"), ("W", "100"), ("W1", "100"), ("W2", "180"),
           ("GH", "250"), ("REL", "300"), ("HOLD", "CLEAR"), ("RAIN", "DRY"), ("PLANS", "M0/900/0/0")] (lastReply t)) = true := by
  decide +kernel

/-! ## The track lines (08) -/

/-- R143, R144: new settings wait for the next round. -/
theorem test_defline :
    gives (.defline (line ["L=A", "PER=20", "MISS=3"])) plant
      (fun t => (t.line .A).record == some ⟨20, 5, 3⟩ && (t.line .A).current == ⟨20, 5, 2⟩) = true := by
  decide +kernel

/-- R146, R147: a defined station is STALE with no report. -/
theorem test_defstn :
    gives (.defstn (line ["ST=14", "LINE=B", "ADDR=7", "TYPE=LOCK"])) plant
      (fun t =>
        (t.stn 14).map Station.health == some .stale && (t.stn 14).bind Station.report == none &&
        okWith [("ST", "14"), ("STATE", "STALE")] (lastReply t)) = true := by
  decide +kernel

/-- 08, A Service Read: SERVICE ST=9 OP=READ PAR=12 is given ID=0. -/
theorem test_service :
    gives (.service (line ["ST=9", "OP=READ", "PAR=12"])) plant
      (fun t =>
        (t.line .B).queue == [{ id := 0, station := 9, write := false, par := 12, val := none }] &&
        okWith [("ID", "0")] (lastReply t)) = true := by
  decide +kernel

/-- Line B with the service read of S9 under way. -/
def reading : State :=
  plant.modLine .B fun c =>
    { c with phase := .serviceExchange { id := 0, station := 9, write := false, par := 12, val := none }, response := some 4 }

/-- 08: LINE SERVICE ID=0 ST=9 RES=OK VAL=3150, and the round ends. -/
theorem test_service_reply :
    gives (.serviceReplyReceived .B ⟨makeFrame 2 4 41 (0 :: octets32 3150), false, false⟩) reading
      (fun t => t.notices.line.queue == [⟨.service 0 9 .ok (some 3150), 1000⟩] && (t.line .B).phase == .betweenRounds) = true := by
  decide +kernel

/-- R158: no reply within TMO is NOREPLY. -/
theorem test_service_timeout :
    gives (.serviceTimeout .B) reading (fun t => t.notices.line.queue == [⟨.service 0 9 .noReply none, 1000⟩]) = true := by
  decide +kernel

/-- R148: the next round begins with the first station. -/
theorem test_period_expiry :
    gives (.linePeriodExpiry .A) plant
      (fun t => (t.line .A).round == 42 && (t.line .A).phase == .exchange 0 && (t.line .A).period == some 20) = true := by
  decide +kernel

/-- Line A at a station's exchange. -/
def asking (st : StationNo) : State := plant.modLine .A fun c => { c with phase := .exchange st, response := some 5 }

/-- R151, R5: S1's report is stored, and the mark of the track is set. -/
theorem test_frame_received :
    gives (.frameReceived .A ⟨makeFrame 2 2 41 (braked 77).payload, false, false⟩) (asking 1)
      (fun t =>
        (t.stn 1).bind Station.report == some ⟨braked 77, 1000⟩ && (t.mv 0).marks == [false, true] &&
        (t.line .A).phase == .exchange 2) = true := by
  decide +kernel

/-- 08, A Drive Falls Silent: the second miss makes S1 LOST with STATION_LOST. -/
theorem test_response_timeout :
    gives (.responseTimeout .A) ((asking 1).modStn 1 fun x => { x with misses := 1, health := .stale })
      (fun t =>
        (t.stn 1).map Station.health == some .lost && t.notices.line.queue == [⟨.stationLost 1 .A 2 (some 0), 1000⟩]) = true := by
  decide +kernel

/-- R159: the line as it stands. -/
theorem test_linestat :
    gives (.linestat (line ["L=B"])) plant
      (fun t =>
        okWith
          [("L", "B"), ("STATE", "POLLING"), ("PER", "40"), ("TMO", "8"), ("MISS", "2"), ("ROUND", "41"), ("OVR", "0"), ("SVCQ", "0"),
           ("SVCID", "NONE"),
           ("STNS", "S8/1/ONLINE,S9/2/ONLINE,S10/3/ONLINE,S11/4/ONLINE,S12/5/ONLINE,S13/6/ONLINE")] (lastReply t)) = true := by
  decide +kernel

/-- R159: a station without a record is UNUSED. -/
theorem test_stnstat :
    gives (.stnstat (line ["ST=14"])) plant (fun t => okWith [("ST", "14"), ("STATE", "UNUSED")] (lastReply t)) = true := by
  decide +kernel

/-- CRC-16 with x^16+x^12+x^5+1 from all ones without inversion (R177): of "123456789" it is 0x29B1, the known check value of that CRC. -/
theorem test_crc : crc16 [0x31, 0x32, 0x33, 0x34, 0x35, 0x36, 0x37, 0x38, 0x39] = 0x29B1#16 := by decide +kernel

/-! ## Well-formedness: an ill-formed term for each check -/

/-- Tags, verbs, tokens and lengths that R162 does not let pass; 189 characters in the token make a line of 201. -/
theorem test_wf_refuses_lines :
    Instr.wf (.go ⟨[], []⟩) = false ∧ Instr.wf (.go ⟨"1234".toList, []⟩) = false ∧ Instr.wf (.go ⟨"7A".toList, []⟩) = false ∧
      Instr.wf (.go (line ["M= 0"])) = false ∧ Instr.wf (.go (line ["M=#0"])) = false ∧
      Instr.wf (.go (line [String.ofList [Char.ofNat 127]])) = false ∧
      Instr.wf (.go ⟨['7'], [List.replicate 189 'A']⟩) = false ∧ Instr.wf (.go ⟨['7'], [List.replicate 188 'A']⟩) = true ∧
      Instr.wf (.unknownVerb "GO".toList (line [])) = false ∧ Instr.wf (.unknownVerb "G O".toList (line [])) = false := by
  decide +kernel

/-- A received line without its CR LF, an empty frame, a CLEARANCE of no rule, of rules out of order or repeated. -/
theorem test_wf_refuses_the_rest :
    Instr.wf (.lineReceived (asReceived "#7 BEAT *06".toList)) = false ∧ Instr.wf (.lineReceived []) = false ∧
      Instr.wf (.frameReceived .A ⟨[], false, false⟩) = false ∧ Instr.wf (.serviceReplyReceived .A ⟨[], false, false⟩) = false ∧
      Instr.wf (.holdReasonAddition 0 (.clearance [])) = false ∧ Instr.wf (.holdReasonAddition 0 (.clearance [2, 1])) = false ∧
      Instr.wf (.holdReasonRemoval 0 (.clearance [1, 1])) = false := by
  decide +kernel

/-! ## Checks that stand in for quantified hypotheses -/

/-- `State.listsSound` as a check. -/
def listsCheck (s : State) : Bool :=
  decide (s.power.waiting.map PowerRequest.mover).Nodup &&
    (s.power.waiting.all fun e => (s.mv e.mover).state == .awaitPower) &&
    (allMovers.all fun m => s.grant m == 0 || (s.mv m).state.holdsGrant) &&
    (allRules.all fun c => (s.rule c).all fun r => r.waiting.all fun m => (s.mv m).state.recordsHold) &&
    allRules.all fun c => (s.rule c).all fun r => r.g != r.k

theorem lists_of {s : State} (h : listsCheck s = true) : s.listsSound := by
  simp only [listsCheck, Bool.and_eq_true, decide_eq_true_eq, List.all_eq_true, Bool.or_eq_true, beq_iff_eq, allMovers, allRules,
    Option.all_eq_true] at h
  obtain ⟨⟨⟨⟨h1, h2⟩, h3⟩, h4⟩, h5⟩ := h
  exact ⟨h1, h2, fun m hm => (h3 m (List.mem_finRange m)).resolve_left hm, fun c r hr m hm => h4 c (List.mem_finRange c) r hr m hm,
    fun c r hr => bne_iff_ne.1 (h5 c (List.mem_finRange c) r hr)⟩

/-- `State.travelSound` as a check. -/
def travelCheck (s : State) : Bool :=
  allMovers.all fun m =>
    ((s.mv m).record.all fun r => decide (r.lo < r.hi ∧ r.loUm ≤ (s.mv m).p ∧ (s.mv m).p ≤ r.hiUm)) &&
      (!(s.mv m).exec.isSome || ((s.mv m).state.recordsHold && !(s.mv m).positionUnset)) &&
      (s.mv m).exec.all fun e =>
        match e.part.dir, e.seg.kind with
        | some d, .move target _ _ _ => decide (0 ≤ d.sign * ((s.mv m).targetUsed target - (s.mv m).p))
        | _, _ => true

theorem travel_of {s : State} (h : travelCheck s = true) : s.travelSound := by
  intro m
  simp only [travelCheck, List.all_eq_true, Bool.and_eq_true, allMovers] at h
  obtain ⟨⟨h1, h2⟩, h3⟩ := h m (List.mem_finRange m)
  refine ⟨fun r hr => ?_, fun he => ?_, fun e d target v a b he hd hk => ?_⟩
  · simpa [hr] using h1
  · simpa [he] using h2
  · simpa [he, hd, hk] using h3

theorem rules_all {s : State} {p : RuleNo → Rule → Bool} (h : (allRules.all fun c => (s.rule c).all (p c)) = true) :
    ∀ c r, s.rule c = some r → p c r = true := fun c r hr => by
  have := List.all_eq_true.1 h c (List.mem_finRange c)
  rwa [hr] at this

theorem stations_all {s : State} {p : StationNo → Station → Bool}
    (h : (allStations.all fun st => (s.stn st).all (p st)) = true) : ∀ st x, s.stn st = some x → p st x = true := fun st x hx => by
  have := List.all_eq_true.1 h st (List.mem_finRange st)
  rwa [hx] at this

theorem some_of {α : Type} {o : Option α} {p : α → Bool} (h : o.any p = true) : ∃ x, o = some x ∧ p x = true := by
  cases o with
  | none => cases h
  | some x => exact ⟨x, rfl, h⟩

/-- A line of a verb that is next and whose tokens are fields is executed. -/
theorem runs {s : State} {verb : String} {ln : CommandLine}
    (h : s.pins.resetLow = false ∧ s.lineIsNext { verb := verb.toList, ln := ln } = true ∧ parseFields ln.tokens = some (fieldsOf ln)) :
    s.executes verb ln (fieldsOf ln) := ⟨h.1, h.2.1, h.2.2⟩

theorem goes_on {o : Host.Outcome State Fault Refusal} (h : (match o with | .next _ => true | _ => false) = true) :
    ∃ t, o = .next t := by
  cases o with
  | next t => exact ⟨t, rfl⟩
  | fault f => cases h
  | refused r => cases h

/-! ## Witnesses: states and operands that meet the hypotheses of each statement -/

/-- The part held in RESET. -/
def inReset : State := { State.reset with pins := { resetLow := true } }

/-- A leaf running with its slot taken from the pool: every invariant holds here. -/
def soundLeaf : State :=
  { leafIn .running 400 with pool := { free := (List.finRange 256).tail }, pending := [.estop (line ["M=ALL"])] }

theorem witness_EmptyQueueStepTakesOwnEventOrTick :
    (inReset.pending = [] ∧ inReset.pins.resetLow = true) ∧
      (let s : State := { plant with posted := [.releaseTimerExpiry] };
        s.pending = [] ∧ s.pins.resetLow = false ∧ s.posted = .releaseTimerExpiry :: []) ∧
      (let s : State := { plant with link := { plant.link with inputBuffer := [⟨"BEAT".toList, line []⟩] } };
        s.pending = [] ∧ s.pins.resetLow = false ∧ s.posted = [] ∧ s.link.inputBuffer = ⟨"BEAT".toList, line []⟩ :: [] ∧
          s.link.executionReplyWaits = false) ∧
      (plant.pending = [] ∧ plant.pins.resetLow = false ∧ plant.posted = [] ∧
        (plant.link.inputBuffer = [] ∨ plant.link.executionReplyWaits = true)) := by
  decide +kernel

theorem soundLeaf_steps : ∃ t, step soundLeaf = .next t := goes_on (by decide +kernel)

theorem witness_GrantsStayWithinTheBudget : soundLeaf.powerSound ∧ ∃ t, step soundLeaf = .next t :=
  ⟨by unfold State.powerSound; decide +kernel, soundLeaf_steps⟩

theorem witness_EverySlotStaysInOnePlace : soundLeaf.poolSound ∧ ∃ t, step soundLeaf = .next t :=
  ⟨by unfold State.poolSound; decide +kernel, soundLeaf_steps⟩

theorem witness_ChainsStayWithinTheirCap :
    let s : State :=
      { (withMover plant 7 fun x =>
          { x with
            record := some { gate with cap := 2 }
            chain := [segment 7 0 1 (.dwell 5), segment 7 1 2 (.dwell 5)] }) with
        pending := [.go (line ["M=7"])] }
    (∀ m, m ≠ 2 ∧ m ≠ 3 → (s.mv m).chainSound) ∧ ∃ t, step s = .next t :=
  ⟨by unfold Mover.chainSound; decide +kernel, goes_on (by decide +kernel)⟩

theorem witness_QueuesStayWithinTheirSizes :
    let s : State :=
      { soundLeaf with
        notices := { safety := { queue := List.replicate 16 ⟨.stopOpen, 1⟩ } }
        lineA := { soundLeaf.lineA with queue := List.replicate 4 { id := 0, station := 0, write := false, par := 0, val := none } } }
    (s.notices.bounded ∧ s.link.Bounded ∧ s.queuesSound) ∧ ∃ t, step s = .next t :=
  ⟨⟨by unfold NoticeUnit.bounded ClassQueue.bounded; decide +kernel,
      ⟨by decide +kernel, by decide +kernel, by decide +kernel, by decide +kernel⟩,
      by unfold State.queuesSound LineCtl.bounded; decide +kernel⟩,
    goes_on (by decide +kernel)⟩

theorem witness_CommandedPositionStaysInTravel : soundLeaf.travelSound ∧ ∃ t, step soundLeaf = .next t :=
  ⟨travel_of (by decide +kernel), soundLeaf_steps⟩

theorem witness_ListsStayInAgreementWithStates : soundLeaf.listsSound ∧ ∃ t, step soundLeaf = .next t :=
  ⟨lists_of (by decide +kernel), soundLeaf_steps⟩

theorem witness_ResetHeldLowFreezesThePart :
    inReset.pins.resetLow = true ∧ (∀ a b d, Instr.transmitLineEnd ≠ .powerOn a b d) ∧
      (∀ b, Instr.transmitLineEnd ≠ .resetRelease b) ∧ Instr.transmitLineEnd ≠ .stopinOpening ∧
      Instr.transmitLineEnd ≠ .stopinClosing := by
  refine ⟨rfl, ?_, ?_, ?_, ?_⟩ <;> simp

theorem witness_PowerAndResetGivePowerUpValues : plant.pins.resetLow = false ∧ inReset.pins.resetLow = true := by decide +kernel

theorem witness_StopinOpeningStopsEveryMover :
    (let s : State := { soundLeaf with pins := { stopOpen := true } };
      s.pins.resetLow = false ∧ s.pins.stopOpen = true) ∧
      (soundLeaf.pins.resetLow = false ∧ soundLeaf.pins.stopOpen = false ∧ soundLeaf.listsSound) ∧
      (soundLeaf.mv 0).state.estopActs = true ∧ (soundLeaf.mv 6).state.estopActs = false :=
  ⟨by decide +kernel, ⟨by decide +kernel, by decide +kernel, lists_of (by decide +kernel)⟩, by decide +kernel, by decide +kernel⟩

/-- The plant with its receiver in a state. -/
def hearing (r : Receiver) : State := plant.setReceiver r

/-- Between lines: a #, and strays; within a line: a #, the end of a damaged line and of one of 200 characters, what damages a line,
and what joins one of 199 characters. -/
theorem witness_CharactersAreReceivedByTheTable :
    ((hearing (.between true)).pins.resetLow = false ∧ (hearing (.between true)).link.receiver = .between true ∧
        octetChar 0x23 = '#' ∧ octetChar 0x41 ≠ '#') ∧
      (hearing (.between false)).link.receiver = .between false ∧
      (hearing (.within (List.replicate 200 'A') false true)).link.receiver = .within (List.replicate 200 'A') false true ∧
      200 ≤ (List.replicate 200 'A').length ∧
      (hearing (.within ['#'] true true)).link.receiver = .within ['#'] true true ∧ octetChar 0x0A = lineFeed ∧
      (hearing (.within (List.replicate 199 'A') false false)).link.receiver = .within (List.replicate 199 'A') false false ∧
      (List.replicate 199 'A').length < 200 ∧
      (∀ o ∈ ([0x20, 0x7E] : List Octet), octetChar o ≠ '#' ∧ octetChar o ≠ lineFeed ∧ printable (octetChar o) = true) ∧
      octetChar 0x0D = carriageReturn ∧
      (∀ o ∈ ([0x1F, 0x7F, 0x80, 0xFF] : List Octet), octetChar o ≠ '#' ∧ octetChar o ≠ lineFeed ∧
        printable (octetChar o) = false ∧ octetChar o ≠ carriageReturn) := by
  decide +kernel

/-- The plant hearing a line less its LF, with supervision in a state. -/
def hearingLine (text : Text) (sup : Supervision) : State :=
  { plant with link := { plant.link with receiver := .within (text ++ [carriageReturn]) false true, sup := sup } }

/-- The longest line that R162 lets pass, less its CR LF. -/
def longLine : Text := commandText "GO".toList ⟨['7'], [List.replicate 188 'A']⟩

/-- A damaged line; the longest line with supervision off; in window mode an early BEAT, one in time and another line; in simple mode any
line. -/
theorem witness_CompletedLineIsCheckedObservedAndBuffered :
    let x : RxChar := ⟨0x0A, true⟩
    let beat := "#7 BEAT *06".toList
    let window (left : Nat) : Supervision := { on := true, up := some 100, low := some 40, timer := some left }
    (plant.pins.resetLow = false ∧ x.goodStop = true ∧ octetChar x.octet = lineFeed) ∧
      ((hearingLine "#7 BEAT *07".toList {}).link.receiver = .within ("#7 BEAT *07".toList ++ [carriageReturn]) false true ∧
        "#7 BEAT *07".toList.length < 199 ∧ parseLine "#7 BEAT *07".toList = none) ∧
      ((hearingLine longLine {}).link.receiver = .within (longLine ++ [carriageReturn]) false true ∧ longLine.length = 198 ∧
        parseLine longLine = some ⟨"GO".toList, ⟨['7'], [List.replicate 188 'A']⟩⟩ ∧ plant.link.inputBuffer.length < 4 ∧
        (hearingLine longLine {}).link.sup.timer = none) ∧
      (parseLine beat = some ⟨"BEAT".toList, line []⟩ ∧ (hearingLine beat (window 61)).link.sup.timer = some 61 ∧ 100 - 61 < 40 ∧
        ¬(100 - 60 < 40) ∧ (hearingLine beat { on := true, up := some 100, low := some 0, timer := some 100 }).link.sup.low = some 0 ∧
        (hearingLine longLine (window 61)).link.sup.up = some 100 ∧ "GO".toList ≠ "BEAT".toList) := by
  decide +kernel

/-- The longest line, to a port with three lines waiting, with four and three FULL replies, and with four of each. -/
theorem witness_EveryCommandLineIsReadAsItWasWritten :
    let ln : CommandLine := ⟨['7'], [List.replicate 188 'A']⟩
    let port (lines fulls : Nat) : State :=
      { plant with
        link :=
          { plant.link with
            inputBuffer := List.replicate lines ⟨"BEAT".toList, line []⟩
            replies := List.replicate fulls { tag := ['8'], form := .refused .full, fields := [], full := true } } }
    ln.wf "GO".toList = true ∧
      (∀ n ∈ [(3, 0), (4, 3), (4, 4)], (port n.1 n.2).pins.resetLow = false ∧
        (port n.1 n.2).link.receiver = .between false ∧ (port n.1 n.2).link.sup.timer = none ∧
        (port n.1 n.2).link.inputBuffer.length = n.1 ∧ ((port n.1 n.2).link.replies.filter Reply.full).length = n.2) := by
  decide +kernel

theorem witness_DecimalValuesAreReadBack :
    (9999999999 : Int).natAbs < 10000000000 ∧ (-9999999999 : Int).natAbs < 10000000000 ∧ (0 : Int).natAbs < 10000000000 := by
  decide +kernel

/-- A line on TXD, with a reply waiting, with a LINE notice alone, and with nothing to send. -/
theorem witness_TransmitterChoosesRepliesThenRankedNotices :
    let tx : TxLine := { text := [], carriesZ := false, left := 1000 }
    (plant.pins.resetLow = false ∧ plant.link.tx = some tx) ∧
      (let s := plant.reply (accepted (line []) []); s.link.tx = some tx ∧ s.link.replies = accepted (line []) [] :: []) ∧
      (let s : State := { plant with notices := { line := { queue := [⟨.overrun .A 41, 9⟩], overflow := true } } };
        s.link.tx = some tx ∧ s.link.replies = [] ∧ (s.notices.get .line).queue = ⟨.overrun .A 41, 9⟩ :: [] ∧
          ∀ d ∈ [NoticeClass.safety, .motion, .weather, .line].takeWhile (· ≠ .line), (s.notices.get d).queue = []) ∧
      plant.link.replies = [] ∧ ∀ c ∈ [NoticeClass.safety, .motion, .weather, .line], (plant.notices.get c).queue = [] := by
  decide +kernel

theorem witness_SupervisionExpiryLosesTheLink :
    let s : State := { plant with link := { plant.link with sup := { on := true, up := some 100, low := some 0, timer := some 0 } } }
    s.pins.resetLow = false ∧ s.link.sup.timer = some 0 := by
  decide +kernel

/-- UNKNOWN; a token that is no field; a test of GO's that fails (CHAIN_EMPTY). -/
theorem witness_RefusedCommandsChangeNothing :
    (plant.pins.resetLow = false ∧ verbCommand "OPEN".toList = none ∧
        plant.lineIsNext { verb := "OPEN".toList, ln := line [] } = true) ∧
      (∃ v ∈ verbActs, v.1 = "GO" ∧ plant.lineIsNext { verb := v.1.toList, ln := line ["M"] } = true) ∧
      parseFields (line ["M"]).tokens = none ∧ parseFields (line ["M=0"]).tokens = some (fieldsOf (line ["M=0"])) ∧
      (match actGo (fieldsOf (line ["M=0"])) plant.leaveBuffer with | .error e => e == .chainEmpty | .ok _ => false) = true := by
  refine ⟨by decide +kernel, ⟨("GO", .go, actGo), ?_, rfl, by decide +kernel⟩, by decide +kernel⟩
  simp [verbActs]

/-- A second line in the buffer; a line that has not come in, with three before it. -/
theorem witness_LinesWaitTheirTurn :
    let b : BufferedLine := ⟨"BEAT".toList, line []⟩
    let g : BufferedLine := ⟨"GO".toList, line ["M=0"]⟩
    let port (bs : List BufferedLine) : State := { plant with link := { plant.link with inputBuffer := bs } }
    (∃ v ∈ verbActs, v.1 = "GO") ∧
      ((port [b, g]).pins.resetLow = false ∧ (port [b, g]).lineIsNext g = false ∧
        (port [b, g]).link.inputBuffer.contains g = true) ∧
      ((port [b, b, b]).lineIsNext g = false ∧ (port [b, b, b]).link.inputBuffer.contains g = false ∧
        (port [b, b, b]).link.inputBuffer.length < 4) := by
  refine ⟨⟨("GO", .go, actGo), ?_, rfl⟩, by decide +kernel⟩
  simp [verbActs]

/-- BEAT; SUPERVISE with LOW one below UP, at UP's two ends; ON=0. -/
theorem witness_SuperviseSetsTheTimer :
    plant.executes "BEAT" (line []) [] ∧
      plant.executes "SUPERVISE" (line ["ON=1", "UP=100", "LOW=99"]) (fieldsOf (line ["ON=1", "UP=100", "LOW=99"])) ∧
      parseSupervise (fieldsOf (line ["ON=1", "UP=100", "LOW=99"])) = .ok (some (100, 99)) ∧
      parseSupervise (fieldsOf (line ["ON=1", "UP=60000"])) = .ok (some (60000, 0)) ∧ plant.link.sup.lost = none ∧
      plant.executes "SUPERVISE" (line ["ON=0"]) (fieldsOf (line ["ON=0"])) ∧
      parseSupervise (fieldsOf (line ["ON=0"])) = .ok none := by
  refine ⟨runs (by decide +kernel), runs (by decide +kernel), ?_, ?_, ?_, runs (by decide +kernel), ?_⟩ <;> decide +kernel

theorem witness_LinkstatReportsThenClears : plant.executes "LINKSTAT" (line []) [] := runs (by decide +kernel)

theorem witness_ClearallReturnsToPowerUpValues :
    plant.executes "CLEARALL" (line []) [] ∧ ∀ m, (plant.mv m).atRest = true := ⟨runs (by decide +kernel), by decide +kernel⟩

theorem witness_PoolstatCountsTheSlots : soundLeaf.executes "POOLSTAT" (line []) [] ∧ soundLeaf.poolSound :=
  ⟨runs (by decide +kernel), by unfold State.poolSound; decide +kernel⟩

theorem witness_PowerstatReportsTheArbiter : soundLeaf.executes "POWERSTAT" (line []) [] ∧ soundLeaf.powerSound :=
  ⟨runs (by decide +kernel), by unfold State.powerSound; decide +kernel⟩

theorem witness_SetnoteSetsEnablesThenThreshold :
    let ln := line ["SAFETY=1", "MOTION=0", "LOGTHR=256"]
    plant.executes "SETNOTE" ln (fieldsOf ln) ∧
      parseSetnote (fieldsOf ln) =
        .ok { safety := some true, motion := some false, weather := none, line := none, logThreshold := some 256 } :=
  ⟨runs (by decide +kernel), by decide +kernel⟩

theorem witness_ProfileArithmeticLosesNothing : (999 : Nat) < 1000 := by decide

/-- W1 one below W2 and far below it; a mean at W1, between, one below W2 and at W2; a hold that is not CLEAR; no figure. -/
theorem witness_DeratePercentFallsFromW1ToW2 :
    let t : WxThresholds := ⟨100, 180, 250, 300⟩
    (t.w1 < t.w2 ∧ (⟨998, 999, 0, 10⟩ : WxThresholds).w1 < 999) ∧ (⟨100, 0⟩ : WindFigure).mean ≤ t.w1 ∧
      (t.w1 < (⟨179, 0⟩ : WindFigure).mean ∧ (⟨179, 0⟩ : WindFigure).mean < t.w2) ∧ WindHold.engaged ≠ .clear := by
  decide +kernel

/-- One waiting list in each mode. -/
theorem witness_ArbitrationGrantsAllItCan :
    ((contended .priority).power.mode = .priority ∧ (contended .rotate).power.mode = .rotate) ∧
      (∀ e ∈ (contended .priority).power.waiting, e.mover ≠ 0) ∧
      ((contended .priority).power.waiting.map PowerRequest.mover).Nodup ∧
      ∀ e ∈ (contended .priority).power.waiting, e.min ≤ e.req := by
  decide +kernel

/-- POS at both ends of its range, MEAN and GUST at the top of theirs; an address, a kind and a round that differ. -/
theorem witness_ReportFramesAreReadBack :
    (Report.drive (-2147483648) .ready .applied).wf ∧ (Report.drive 2147483647 .disabled .travelling).wf ∧ (Report.lock .jammed).wf ∧
      (Report.weather 999 999 true).wf ∧ StationType.lock ≠ (Report.weather 999 999 true).type ∧
      (BitVec.ofNat 8 31 ≠ BitVec.ofNat 8 1 ∧ (2 : Octet) ≠ 4 ∧ (255 : BitVec 8) ≠ 0) := by
  refine ⟨?_, ?_, trivial, ?_, by decide, by decide⟩ <;> constructor <;> decide

/-- Rule numbers −1, 16, 15 without a rule and 0 with one; no field. -/
theorem witness_RulestatReportsTheRules :
    let s := plant.setRule 0 (some (ruleZero .released [6]))
    (∀ x ∈ ([-1, 0, 15, 16] : List Int),
        let ln : CommandLine := ⟨['7'], ["C=".toList ++ intText x]⟩
        (s.pins.resetLow = false ∧ s.lineIsNext { verb := "RULESTAT".toList, ln := ln } = true ∧
          parseFields ln.tokens = some (fieldsOf ln)) ∧
        fieldsOf ln = [{ name := "C".toList, value := intText x }] ∧ x.natAbs < 10000000000) ∧
      s.rule 15 = none ∧ s.rule 0 = some (ruleZero .released [6]) ∧ s.executes "RULESTAT" (line []) [] :=
  ⟨by decide +kernel, by decide +kernel, by decide +kernel, runs (by decide +kernel)⟩

theorem witness_StatusVerbsReportAndChangeNothing :
    (plant.executes "MOVERSTAT" (line ["M=7"]) (fieldsOf (line ["M=7"])) ∧ parseMover (fieldsOf (line ["M=7"])) = .ok 7) ∧
      plant.executes "WXSTAT" (line []) [] ∧
      (plant.executes "LINESTAT" (line ["L=B"]) (fieldsOf (line ["L=B"])) ∧ parseLinestat (fieldsOf (line ["L=B"])) = .ok .B) ∧
      (plant.executes "STNSTAT" (line ["ST=23"]) (fieldsOf (line ["ST=23"])) ∧
        parseStnstat (fieldsOf (line ["ST=23"])) = .ok 23) :=
  ⟨⟨runs (by decide +kernel), by decide +kernel⟩, runs (by decide +kernel), ⟨runs (by decide +kernel), by decide +kernel⟩,
    ⟨runs (by decide +kernel), by decide +kernel⟩⟩

/-- The tray under way with C0 in a state, the gate at p. -/
def trayRunning (st : RuleState) (gateAt : Int) : State :=
  let s := withMover (executing plant 6 (.move 2000 60 10 10) []) 7 fun x => { x with p := gateAt }
  s.setRule 0 (some (ruleZero st []))

/-- Each kind at an idle gate with one place left in its chain; a MOVE that becomes the tray's look-ahead, which needs C0: refused where
the gate has it, granted where the gate lies in the region. -/
theorem witness_StageFillsTheTopFreeSlot :
    let s := withMover plant 7 fun x => { x with record := some { gate with cap := 2 }, chain := [segment 7 200 1 (.dwell 5)] }
    let move := line ["M=7", "TAG=65535", "KIND=MOVE", "TO=-999999999"]
    let dwell := line ["M=7", "TAG=0", "KIND=DWELL", "T=999999999"]
    let align := line ["M=7", "TAG=0", "KIND=ALIGN", "LOCK=1"]
    let next := line ["M=6", "TAG=601", "KIND=MOVE", "TO=100000"]
    let seg : Segment := segment 6 0 601 (.move 100000 60 10 10)
    let ahead (s : State) : Mover := { s.mv 6 with chain := (s.mv 6).chain ++ [seg] }
    (s.executes "STAGE" move (fieldsOf move) ∧ s.executes "STAGE" dwell (fieldsOf dwell) ∧ s.executes "STAGE" align (fieldsOf align)) ∧
      parseMotion (fieldsOf move) = .ok (7, { tag := 65535, kind := .move (-999999999) none none none, lock := false }) ∧
      parseMotion (fieldsOf dwell) = .ok (7, { tag := 0, kind := .dwell 999999999, lock := false }) ∧
      parseMotion (fieldsOf align) = .ok (7, { tag := 0, kind := .align, lock := true }) ∧
      ((s.mv 7).state ≠ .unconfigured ∧ s.pool.free = 0 :: (List.finRange 256).tail ∧ (s.mv 7).chain.length < (s.mv 7).cfg.cap ∧
        (s.mv 7).chain ≠ []) ∧
      ((trayRunning .released 0).executes "STAGE" next (fieldsOf next) ∧
        parseMotion (fieldsOf next) = .ok (6, { tag := 601, kind := .move 100000 none none none, lock := false })) ∧
      (∀ s ∈ [trayRunning .released 0, trayRunning .free 12000000], (s.mv 6).chain = [] ∧ (s.mv 6).chain.length < (s.mv 6).cfg.cap ∧
        s.rule 1 = none ∧
        (s.rule 0).any (fun u => u.neededBy 6 (ahead s).lookaheadPath && !u.has 6) = true) ∧
      (trayRunning .released 0).grantedState (ruleZero .released []) 6 = none ∧
      (trayRunning .free 12000000).grantedState (ruleZero .free []) 6 = some .held := by
  refine ⟨⟨runs (by decide +kernel), runs (by decide +kernel), runs (by decide +kernel)⟩, ?_, ?_, ?_, ?_,
    ⟨runs (by decide +kernel), ?_⟩, ?_, ?_, ?_⟩ <;> decide +kernel

theorem witness_FlushLogsThePendingSegments :
    leafStaged.executes "FLUSH" (line ["M=0"]) (fieldsOf (line ["M=0"])) ∧ parseMover (fieldsOf (line ["M=0"])) = .ok 0 ∧
      (leafStaged.mv 0).state ≠ .unconfigured ∧
      -- the threshold test, at the first count that reaches the threshold, below it, and with the arm clear
      (leafStaged.pool.logArm = true ∧ (leafStaged.mv 0).chain.map (flushedRecord 1000) ≠ [] ∧
        ({ leafStaged with notices := { logThreshold := 1 } } : State).notices.logThreshold ≤
          leafStaged.pool.log.length + ((leafStaged.mv 0).chain.map (flushedRecord 1000)).length) ∧
      leafStaged.pool.log.length + ((leafStaged.mv 0).chain.map (flushedRecord 1000)).length < leafStaged.notices.logThreshold ∧
      (plant.mv 0).chain = [] :=
  ⟨runs (by decide +kernel), by decide +kernel, by decide +kernel, by decide +kernel, by decide +kernel, by decide +kernel⟩

/-- N at both ends of its range. -/
theorem witness_LogreadFreesTheOldestSlots :
    (plant.executes "LOGREAD" (line ["N=1"]) (fieldsOf (line ["N=1"])) ∧ parseLogread (fieldsOf (line ["N=1"])) = .ok 1) ∧
      (plant.executes "LOGREAD" (line []) (fieldsOf (line [])) ∧ parseLogread (fieldsOf (line [])) = .ok 8) :=
  ⟨⟨runs (by decide +kernel), by decide +kernel⟩, ⟨runs (by decide +kernel), by decide +kernel⟩⟩

/-- MODE alone; a budget that equals the granted sum; the highest one. -/
theorem witness_SetpowerArbitratesOnARaisedBudget :
    let s := contended .priority
    let run (ts : List String) : Prop := s.executes "SETPOWER" (line ts) (fieldsOf (line ts))
    (run ["MODE=ROTATE"] ∧ parseSetpower (fieldsOf (line ["MODE=ROTATE"])) = .ok (none, some .rotate) ∧
        (none : Option Nat).getD s.power.budget ≤ s.power.budget) ∧
      (run ["BUDGET=560"] ∧ parseSetpower (fieldsOf (line ["BUDGET=560"])) = .ok (some 560, none) ∧ s.grantedSum ≤ 560 ∧
        (some 560).getD s.power.budget ≤ s.power.budget) ∧
      (run ["BUDGET=65535"] ∧ parseSetpower (fieldsOf (line ["BUDGET=65535"])) = .ok (some 65535, none) ∧ s.grantedSum ≤ 65535 ∧
        s.power.budget < (some 65535).getD s.power.budget) := by
  refine ⟨⟨runs (by decide +kernel), ?_, ?_⟩, ⟨runs (by decide +kernel), ?_, ?_, ?_⟩, ⟨runs (by decide +kernel), ?_, ?_, ?_⟩⟩ <;>
    decide +kernel

/-- The plant with the tray and the gate at positions. -/
def standing (trayAt gateAt : Int) : State :=
  withMover (withMover plant 6 fun x => { x with p := trayAt }) 7 fun x => { x with p := gateAt }

/-- A deletion, and the four positions of the two movers at the ends of zone and region. -/
theorem witness_DefruleDefinesAndDeletes :
    let ln := line ["C=15", "G=6", "ZLO=3000", "ZHI=97000", "K=7", "RLO=11950", "RHI=12050"]
    let a : RuleArgs := ⟨6, 3000, 97000, 7, 11950, 12050⟩
    let inZone (s : State) : Bool := decide ((a.zlo : Int) * 1000 ≤ (s.mv a.g).p ∧ (s.mv a.g).p ≤ (a.zhi : Int) * 1000)
    let inRegion (s : State) : Bool := decide ((a.rlo : Int) * 1000 ≤ (s.mv a.k).p ∧ (s.mv a.k).p ≤ (a.rhi : Int) * 1000)
    (plant.executes "DEFRULE" (line ["C=15"]) (fieldsOf (line ["C=15"])) ∧ parseDefrule (fieldsOf (line ["C=15"])) = .ok (15, none)) ∧
      (∀ c r, plant.rule c = some r → r.state = .free) ∧ plant.executes "DEFRULE" ln (fieldsOf ln) ∧
      parseDefrule (fieldsOf ln) = .ok (15, some a) ∧ a.g ≠ a.k ∧
      (∀ m, m = a.g ∨ m = a.k → (plant.mv m).state ≠ .unconfigured ∧ (plant.mv m).atRest = true ∧ (plant.mv m).positionUnset = false) ∧
      (inZone (standing 3000000 12050001) = true ∧ inRegion (standing 3000000 12050001) = false) ∧
      (inZone (standing 97000000 11950000) = true ∧ inRegion (standing 97000000 11950000) = true) ∧
      (inZone (standing 97000001 12050000) = false ∧ inRegion (standing 97000001 12050000) = true) ∧
      (inZone (standing 2999999 11949999) = false ∧ inRegion (standing 2999999 11949999) = false) := by
  refine ⟨⟨runs (by decide +kernel), by decide +kernel⟩, ?_, runs (by decide +kernel), ?_, ?_, ?_, ?_, ?_, ?_, ?_⟩
  · intro c r h
    simpa using rules_all (p := fun _ r => decide (r.state = .free)) (by decide +kernel) c r h
  all_goals decide +kernel

/-- A plan stored and a plan deleted; the mask of one mover and of all. -/
theorem witness_PlansAndMasksAreStored :
    let plan := line ["M=0", "TAG=900", "KIND=DWELL", "T=1"]
    (plant.executes "SETPLAN" plan (fieldsOf plan) ∧
        parseSetplan (fieldsOf plan) = .ok (0, some { tag := 900, kind := .dwell 1, lock := false }) ∧
        (plant.mv 0).state ≠ .unconfigured) ∧
      (plant.executes "SETPLAN" (line ["M=0"]) (fieldsOf (line ["M=0"])) ∧ parseSetplan (fieldsOf (line ["M=0"])) = .ok (0, none)) ∧
      (plant.executes "SETTRIG" (line ["M=0", "MASK=0"]) (fieldsOf (line ["M=0", "MASK=0"])) ∧
        parseSettrig (fieldsOf (line ["M=0", "MASK=0"])) = .ok (some 0, false)) ∧
      (plant.executes "SETTRIG" (line ["M=ALL", "MASK=1"]) (fieldsOf (line ["M=ALL", "MASK=1"])) ∧
        parseSettrig (fieldsOf (line ["M=ALL", "MASK=1"])) = .ok (none, true)) :=
  ⟨⟨runs (by decide +kernel), by decide +kernel, by decide +kernel⟩, ⟨runs (by decide +kernel), by decide +kernel⟩,
    ⟨runs (by decide +kernel), by decide +kernel⟩, ⟨runs (by decide +kernel), by decide +kernel⟩⟩

/-- The plant with the hold in a state. -/
def holding (h : WindHold) (s : State) : State := { s with wx := { s.wx with hold := h, releaseTimer := if h = .releasing then some 9 else none } }

/-- The cause for which a CLEAR hold engages, as the statements form it. -/
def causeOf (thr : WxThresholds) (figure : Option WindFigure) : Option WindCause :=
  match figure with
  | none => some .noSource
  | some f => if thr.w2 ≤ f.mean then some .mean else if thr.gh ≤ f.gust then some .gust else none

/-- Both sources named with thresholds at the figure of 92 and 140: MEAN, GUST, none of them; ENGAGED; RELEASING with a calm figure and
with one that is not. -/
theorem witness_SetwxTestsTheHold :
    let run (w1 w2 gh : String) : CommandLine := line ["SRC=4,5", "W1=" ++ w1, "W2=" ++ w2, "GH=" ++ gh, "REL=10"]
    let mean := run "91" "92" "141"
    let gust := run "92" "93" "140"
    let fine := run "93" "999" "141"
    let now (s : State) : State := { s with wx := { s.wx with sources := [4, 5] } }
    (plant.executes "SETWX" mean (fieldsOf mean) ∧ plant.executes "SETWX" gust (fieldsOf gust) ∧ plant.executes "SETWX" fine (fieldsOf fine)) ∧
      parseSetwx (fieldsOf mean) = .ok ([4, 5], ⟨91, 92, 141, 10⟩) ∧ parseSetwx (fieldsOf gust) = .ok ([4, 5], ⟨92, 93, 140, 10⟩) ∧
      parseSetwx (fieldsOf fine) = .ok ([4, 5], ⟨93, 999, 141, 10⟩) ∧ ([4, 5] : List StationNo).Nodup ∧
      (∀ st ∈ ([4, 5] : List StationNo), ∃ x, plant.stn st = some x ∧ x.type = .weather) ∧
      plant.wx.hold = .clear ∧ (now plant).windFigure = some ⟨92, 140⟩ ∧ causeOf ⟨91, 92, 141, 10⟩ (some ⟨92, 140⟩) = some .mean ∧
      causeOf ⟨92, 93, 140, 10⟩ (some ⟨92, 140⟩) = some .gust ∧ causeOf ⟨93, 999, 141, 10⟩ (some ⟨92, 140⟩) = none ∧
      (holding .engaged plant).wx.hold = .engaged ∧ (holding .releasing plant).wx.hold = .releasing := by
  refine ⟨⟨runs (by decide +kernel), runs (by decide +kernel), runs (by decide +kernel)⟩, ?_, ?_, ?_, ?_, fun st h => ?_, ?_, ?_, ?_,
    ?_, ?_, ?_, ?_⟩
  case refine_5 =>
    have : ∀ st ∈ ([4, 5] : List StationNo), (plant.stn st).any (fun x => decide (x.type = .weather)) = true := by decide +kernel
    simpa using some_of (this st h)
  all_goals decide +kernel

/-- A line that stands OFF, and one POLLING with no station. -/
def lineAlone (on : Bool) : State := State.reset.modLine .A fun _ => if on then polling 20 5 else {}

/-- L alone on an OFF and on a POLLING line; the settings on an OFF line and, with PER kept, on the plant's POLLING line. -/
theorem witness_DeflineActsByTheLinesState :
    let off := line ["L=A"]
    let on := line ["L=A", "PER=200", "TMO=20", "MISS=4"]
    let same := line ["L=A", "PER=20", "TMO=1", "MISS=1"]
    (∀ s ∈ [lineAlone false, lineAlone true],
        (s.pins.resetLow = false ∧ s.lineIsNext { verb := "DEFLINE".toList, ln := off } = true ∧
          parseFields off.tokens = some (fieldsOf off)) ∧
        (s.line .A).queue = [] ∧ (∀ m, (s.mv m).state = .unconfigured) ∧ ∀ st, s.stn st = none) ∧
      ((lineAlone false).line .A).polling = false ∧ ((lineAlone true).line .A).polling = true ∧
      (∀ q, ((lineAlone false).line .A).phase ≠ .serviceExchange q ∧ ((lineAlone true).line .A).phase ≠ .serviceExchange q ∧
        (plant.line .A).phase ≠ .serviceExchange q) ∧
      parseDefline (fieldsOf off) = .ok (.A, none) ∧
      ((lineAlone false).executes "DEFLINE" on (fieldsOf on) ∧ parseDefline (fieldsOf on) = .ok (.A, some ⟨200, 20, 4⟩) ∧
        ((lineAlone false).line .A).phase = .betweenRounds) ∧
      (plant.executes "DEFLINE" same (fieldsOf same) ∧ parseDefline (fieldsOf same) = .ok (.A, some ⟨20, 1, 1⟩) ∧
        (plant.line .A).queue = [] ∧ (plant.line .A).polling = true ∧ plant.period .A = 20 ∧
        ∀ m, (plant.mv m).state ≠ .unconfigured → (plant.mv m).atRest = true) := by
  refine ⟨by decide +kernel, by decide +kernel, by decide +kernel, fun q => ⟨?_, ?_, ?_⟩, by decide +kernel,
    ⟨runs (by decide +kernel), by decide +kernel, by decide +kernel⟩,
    ⟨runs (by decide +kernel), by decide +kernel, by decide +kernel, by decide +kernel, by decide +kernel, by decide +kernel⟩⟩ <;>
    simp [State.line, lineAlone, State.modLine, State.reset, plant, polling]

/-- A new station at both ends of ADDR, its deletion, and the same station of the resting gate defined again. -/
theorem witness_DefstnDefinesAndDeletes :
    let fresh := line ["ST=23", "LINE=A", "ADDR=31", "TYPE=LOCK"]
    let again := line ["ST=12", "LINE=B", "ADDR=31", "TYPE=DRIVE"]
    let gone := line ["ST=23"]
    (plant.executes "DEFSTN" fresh (fieldsOf fresh) ∧ plant.executes "DEFSTN" again (fieldsOf again) ∧
        plant.executes "DEFSTN" gone (fieldsOf gone)) ∧
      parseDefstn (fieldsOf fresh) = .ok (23, some ⟨.A, 31, .lock⟩) ∧ parseDefstn (fieldsOf again) = .ok (12, some ⟨.B, 31, .drive⟩) ∧
      parseDefstn (fieldsOf gone) = .ok (23, none) ∧ plant.stn 23 = none ∧
      (∀ x, plant.stn 12 = some x →
        x.source = false ∧ (plant.line x.line).phase = .betweenRounds ∧ (∀ r ∈ (plant.line x.line).queue, r.station ≠ 12) ∧
        ∀ m, x.owner = some m → (plant.mv m).atRest = true ∧ StationType.drive = x.type ∧ LineId.B = x.line) ∧
      (∀ o y, plant.stn o = some y → y.addr ≠ 31) ∧
      (∀ l, (allStations.countP fun o => o != 12 && (plant.stn o).any fun y => y.line == l) < 12) := by
  refine ⟨⟨runs (by decide +kernel), runs (by decide +kernel), runs (by decide +kernel)⟩, by decide +kernel, by decide +kernel,
    by decide +kernel, by decide +kernel, fun x hx => ?_, fun o y h => ?_, fun l => ?_⟩
  · have e : plant.stn 12 = station .B 5 .drive (some 7) false (braked 0) := by decide +kernel
    obtain rfl : _ = x := Option.some.inj (e.symm.trans hx)
    refine ⟨rfl, by decide +kernel, by decide +kernel, fun m hm => ?_⟩
    obtain rfl : 7 = m := Option.some.inj hm
    exact ⟨by decide +kernel, rfl, rfl⟩
  · simpa using stations_all (p := fun _ y => decide (y.addr ≠ 31)) (by decide +kernel) o y h
  · cases l <;> decide +kernel

/-- A READ behind three requests, and a WRITE of the lowest value. -/
theorem witness_ServiceJoinsTheQueue :
    let s := plant.modLine .B fun c =>
      { c with queue := List.replicate 3 { id := 0, station := 8, write := false, par := 0, val := none } }
    let read := line ["ST=9", "OP=READ", "PAR=65535"]
    let write := line ["ST=9", "OP=WRITE", "PAR=0", "VAL=-2147483648"]
    (s.executes "SERVICE" read (fieldsOf read) ∧ s.executes "SERVICE" write (fieldsOf write)) ∧
      parseService (fieldsOf read) = .ok ⟨9, false, 65535, none⟩ ∧
      parseService (fieldsOf write) = .ok ⟨9, true, 0, some (-2147483648)⟩ ∧ (∃ x, s.stn 9 = some x ∧ x.line = .B) ∧
      (s.line .B).polling = true ∧ (s.line .B).queue.length < 4 :=
  ⟨⟨runs (by decide +kernel), runs (by decide +kernel)⟩, by decide +kernel, by decide +kernel,
    ⟨_, rfl, by decide +kernel⟩, by decide +kernel, by decide +kernel⟩

/-- A service exchange under way, in time and overdue; VAL at both ends; a frame that is no service reply. -/
theorem witness_ServiceExchangeEnds :
    let r : ServiceRequest := { id := 0, station := 9, write := false, par := 12, val := none }
    (reading.pins.resetLow = false ∧ (reading.line .B).phase = .serviceExchange r ∧ (∃ x, reading.stn 9 = some x ∧ x.addr = 2) ∧
        (reading.line .B).record = some (reading.line .B).current) ∧
      (let s := reading.modLine .B fun c => { c with overdue := true, period := none };
        (s.line .B).phase = .serviceExchange r ∧ (s.line .B).overdue = true ∧ (s.line .B).record = some (s.line .B).current) ∧
      (-2147483648 : Int) ≤ 2147483647 ∧
      ((framePayload ⟨makeFrame 2 2 41 [0], false, false⟩ 2 4 41).bind decodeSvcReply = none) :=
  ⟨⟨by decide +kernel, by decide +kernel, ⟨_, rfl, by decide +kernel⟩, by decide +kernel⟩, by decide +kernel, by decide +kernel,
    by decide +kernel⟩

/-- Between rounds, with a first station and with none; with a round under way. -/
theorem witness_PeriodExpiryBeginsTheRound :
    (plant.pins.resetLow = false ∧ (plant.line .A).polling = true ∧ (plant.line .A).period = some 3 ∧
        (plant.line .A).phase = .betweenRounds ∧ (plant.line .A).record = some ⟨20, 5, 2⟩) ∧
      (∃ x, plant.firstFrom .A 0 0 x) ∧ (∀ st x, (lineAlone true).stn st = some x → x.line ≠ .A) ∧
      (asking 0).pins.resetLow = false ∧ ((asking 0).line .A).polling = true ∧ ((asking 0).line .A).period = some 3 ∧
      ((asking 0).line .A).phase ≠ .betweenRounds := by
  refine ⟨by decide +kernel, ⟨_, rfl, rfl, Nat.zero_le _, fun o y _ _ _ => Fin.zero_le o⟩, fun st x h => ?_, ?_, ?_, ?_, ?_⟩
  · exact absurd (stations_all (p := fun _ _ => false) (by decide +kernel) st x h) (by simp)
  all_goals decide +kernel

/-- An exchange in the middle of the round and the last one of the line; a valid report and a frame that is none; a source. -/
theorem witness_StationExchangeEnds :
    ((asking 1).pins.resetLow = false ∧ ((asking 1).line .A).phase = .exchange 1 ∧
        (∃ x, (asking 1).stn 1 = some x ∧ x.addr = 2 ∧ x.type = .drive) ∧
        ((asking 1).line .A).record = some ((asking 1).line .A).current) ∧
      ((asking 7).line .A).phase = .exchange 7 ∧
      ((braked 77).type = .drive ∧ (braked 77).wf) ∧
      ((framePayload ⟨makeFrame 2 2 40 (braked 77).payload, false, false⟩ 2 2 41).bind (decodeReport .drive) = none) ∧
      ((asking 4).line .A).phase = .exchange 4 ∧ ((asking 4).stn 4).map Station.source = some true :=
  ⟨⟨by decide +kernel, by decide +kernel, ⟨_, rfl, by decide +kernel, by decide +kernel⟩, by decide +kernel⟩, by decide +kernel,
    ⟨rfl, by constructor <;> decide⟩, by decide +kernel, by decide +kernel, by decide +kernel⟩

/-- The plant after both sources are lost. -/
def unsourced : State := (plant.modStn 4 fun x => { x with health := .lost }).modStn 5 fun x => { x with health := .lost }

/-- A live source under each hold, calm and not; a lost one; the release in RELEASING. -/
theorem witness_WeatherEventsMoveTheHold :
    let thr : WxThresholds := ⟨100, 180, 250, 300⟩
    (∀ s ∈ [plant, reported 180 0 false, reported 0 250 true, unsourced], s.pins.resetLow = false ∧ s.wx.thresholds = some thr) ∧
      (4 ∈ plant.liveSources ∧ plant.wx.hold = .clear ∧ causeOf thr plant.windFigure = none) ∧
      (4 ∈ (reported 180 0 false).liveSources ∧ causeOf thr (reported 180 0 false).windFigure = some .mean) ∧
      causeOf thr (reported 0 250 true).windFigure = some .gust ∧
      (plant.windFigure = some ⟨92, 140⟩ ∧ 92 < thr.w1 ∧ 140 < thr.gh) ∧ (reported 100 0 false).windFigure = some ⟨100, 131⟩ ∧
      (holding .engaged plant).wx.hold = .engaged ∧ (holding .releasing plant).wx.hold = .releasing ∧
      (4 ∈ unsourced.wx.sources ∧ 4 ∉ unsourced.liveSources ∧ causeOf thr unsourced.windFigure = some .noSource ∧
        unsourced.wx.figure ≠ none ∧ unsourced.windFigure = none) := by
  decide +kernel

/-- The leaf in each kind of state; idle with STOPIN open, with a lost track, with the pool empty, and ready to launch under a CLEAR hold
and under an ENGAGED one. -/
theorem witness_TriggerFiringActsByState :
    let plan : Motion := { tag := 900, kind := .move 0 (some 120) none none, lock := true }
    (∀ st ∈ [MoverState.stopping, .stopped, .fault, .awaitPower, .ending, .idle],
        (leafIn st 0).pins.resetLow = false ∧ ((leafIn st 0).mv 0).state = st ∧ st ≠ .unconfigured ∧
        ((leafIn st 0).trig 0).masked = false ∧ ((leafIn st 0).trig 0).plan = some plan) ∧
      (MoverState.awaitPower.estopActs = true ∧ MoverState.ending.estopActs = true) ∧
      ((plant.mv 0).state = .idle ∧ plant.pins.stopOpen = false) ∧
      ((plant.modStn 1 fun x => { x with health := .lost }).isLost 1 = true ∧ (1 : StationNo) ∈ (plant.mv 0).cfg.tracks) ∧
      (¬((∃ st ∈ (plant.mv 0).cfg.tracks, plant.isLost st = true) ∨ (plant.mv 0).positionUnset = true) ∧
        plant.listsSound ∧ plant.travelSound ∧ plant.pool.free = 0 :: (List.finRange 256).tail) ∧
      ((plant.mv 0).cfg.cls = .exposed ∧ plant.wx.hold = .clear) ∧
      ((holding .engaged plant).wx.hold ≠ .clear ∧ (holding .engaged plant).listsSound ∧ (holding .engaged plant).travelSound) := by
  refine ⟨by decide +kernel, by decide +kernel, by decide +kernel, by decide +kernel,
    ⟨by decide +kernel, lists_of (by decide +kernel), travel_of (by decide +kernel), by decide +kernel⟩, by decide +kernel,
    ⟨by decide +kernel, lists_of (by decide +kernel), travel_of (by decide +kernel)⟩⟩

/-- The gate not yet configured, and the gate at rest configured again; no rule names it. -/
theorem witness_DefmoverConfiguresTheMover :
    (∀ s ∈ [ungated, plant],
        (s.pins.resetLow = false ∧ s.lineIsNext { verb := "DEFMOVER".toList, ln := gateLine } = true ∧
          parseFields gateLine.tokens = some (fieldsOf gateLine)) ∧
        (s.mv 7).atRest = true ∧ (∀ c, s.rule c = none) ∧ (s.mv 7).chain.length ≤ gate.cap ∧
        (∀ st ∈ gate.tracks, (s.stn st).any (fun x =>
          decide (x.type = .drive ∧ (s.line x.line).polling = true ∧ (x.owner = none ∨ x.owner = some 7) ∧ s.period x.line = 40)) =
            true)) ∧
      (ungated.mv 7).state = .unconfigured ∧ (plant.mv 7).state = .idle ∧ parseDefmover (fieldsOf gateLine) = .ok (7, gate) ∧
      gate.tracks.Nodup ∧ gate.lockst = none := by
  decide +kernel

/-- A leaf with one pending segment and LOW at 0, under a CLEAR hold and under an ENGAGED one. -/
theorem witness_GoStartsTheChain :
    let ready := withMover leafStaged 0 fun x => { x with record := some { leaf [0, 1] [0, 0] 6 with low := 0 } }
    (ready.executes "GO" (line ["M=0"]) (fieldsOf (line ["M=0"])) ∧ parseMover (fieldsOf (line ["M=0"])) = .ok 0 ∧
        (ready.mv 0).state = .idle ∧ ready.pins.stopOpen = false ∧ ready.link.sup.lost = none ∧
        (ready.mv 0).chain = opening 0 :: [] ∧ (∀ st ∈ (ready.mv 0).cfg.tracks, ready.isLost st = false) ∧
        (ready.mv 0).positionUnset = false ∧ ready.listsSound ∧ ready.travelSound) ∧
      (ready.motionRoom ∧ ([] : List Segment).length = (ready.mv 0).cfg.low) ∧ ready.wx.hold = .clear ∧
      ((holding .engaged ready).executes "GO" (line ["M=0"]) (fieldsOf (line ["M=0"])) ∧
        ((holding .engaged ready).mv 0).cfg.cls = .exposed ∧ (holding .engaged ready).wx.hold ≠ .clear ∧
        (holding .engaged ready).listsSound ∧ (holding .engaged ready).travelSound) := by
  refine ⟨⟨runs (by decide +kernel), ?_, ?_, ?_, ?_, ?_, ?_, ?_, lists_of ?_, travel_of ?_⟩, ?_, ?_,
    ⟨runs (by decide +kernel), ?_, ?_, lists_of ?_, travel_of ?_⟩⟩
  case refine_10 => unfold State.motionRoom; decide +kernel
  all_goals decide +kernel

/-- A reason that reaches the leaf in every state, alone on no list; HOLD M=0 and HOLD M=ALL. -/
theorem witness_HoldReasonsActByState :
    (∀ st ∈ [MoverState.idle, .holding, .held, .unlocking, .releasing, .running, .awaitPower],
        (leafIn st 0).pins.resetLow = false ∧ ((leafIn st 0).mv 0).state = st) ∧
      (HoldReason.wf .wind = true ∧ HoldReason.wf (.clearance [0, 15]) = true) ∧ MoverState.idle.recordsHold = false ∧
      ((leafIn .awaitPower 0).listsSound ∧ ∀ c u, (leafIn .awaitPower 0).rule c = some u → 0 ∉ u.waiting) ∧
      (plant.executes "HOLD" (line ["M=0"]) (fieldsOf (line ["M=0"])) ∧ parseMoverOrAll (fieldsOf (line ["M=0"])) = .ok (some 0)) ∧
      (plant.executes "HOLD" (line ["M=ALL"]) (fieldsOf (line ["M=ALL"])) ∧ parseMoverOrAll (fieldsOf (line ["M=ALL"])) = .ok none) := by
  refine ⟨by decide +kernel, by decide +kernel, rfl, ⟨lists_of (by decide +kernel), fun c u h => ?_⟩,
    ⟨runs (by decide +kernel), by decide +kernel⟩, ⟨runs (by decide +kernel), by decide +kernel⟩⟩
  simpa using rules_all (p := fun _ u => decide (0 ∉ u.waiting)) (by decide +kernel) c u h

/-- The leaf in a state, held by the operator. -/
def leafHeld (st : MoverState) (brakes unlocked : Bool) : State :=
  withMover (leafIn st (if st = .held then 0 else 400)) 0 fun x =>
    { x with holdSet := { operator := true }, brakeOrdered := brakes, unlocked := unlocked }

/-- The tray holding before its brake order on a MOVE that needs C0, with C0 in a state and the gate at p. -/
def trayHeld (st : RuleState) (gateAt : Int) : State :=
  let s := withMover (executing plant 6 (.move 100000 60 10 10) []) 7 fun x => { x with p := gateAt }
  let s := withMover s 6 fun x => { x with state := .holding, holdSet := { operator := true } }
  (s.setGrant 6 300).setRule 0 (some (ruleZero st []))

/-- The removal of OPERATOR from HELD, from HOLDING with the brakes ordered (lock free, and not yet), from HOLDING before it (no rule, and
a refusing rule); of a reason that is not there; RESUME, and RESUME in STOPPED. -/
theorem witness_RemovalsWakeByState :
    let empties (s : State) (m : MoverNo) : Prop :=
      s.pins.resetLow = false ∧ (s.mv m).holdSet.isEmpty = false ∧
        ([HoldReason.operator].foldl HoldSet.remove (s.mv m).holdSet).isEmpty = true
    (empties (leafHeld .held false false) 0 ∧ (leafHeld .held false false).listsSound ∧
        ((leafHeld .held false false).mv 0).exec = some ⟨opening 0, begunAt 0⟩) ∧
      (empties (leafHeld .holding true false) 0 ∧ (leafHeld .holding true false).lockFree 0) ∧
      (let s := (leafHeld .holding true false).modStn 6 fun x => { x with report := some ⟨.lock .engaged, 9⟩ };
        empties s 0 ∧ ¬s.lockFree 0 ∧ (s.mv 0).unlocked = false) ∧
      (empties (leafHeld .holding false true) 0 ∧ (∀ c, (leafHeld .holding false true).rule c = none) ∧
        (begunAt 0).startTime.isSome = true) ∧
      (empties (trayHeld .released 0) 6 ∧ (trayHeld .released 0).rule 0 = some (ruleZero .released []) ∧
        (ruleZero .released []).k ≠ 6 ∧ ((trayHeld .released 0).mv 6).execPath = some ⟨1000000, 100000000⟩ ∧
        (ruleZero .released []).met ⟨1000000, 100000000⟩ = true) ∧
      (plant.mv 0).holdSet.isEmpty = true ∧
      (∀ st ∈ [MoverState.held, .stopped], let s := leafIn st 0
        (s.pins.resetLow = false ∧ s.lineIsNext { verb := "RESUME".toList, ln := line ["M=0"] } = true) ∧ (s.mv 0).state = st ∧
        s.link.sup.lost = none ∧ s.pins.stopOpen = false ∧ (s.trig 0).pendingFlag = false) ∧
      (leafIn .stopped 0).listsSound := by
  refine ⟨⟨?_, lists_of ?_, ?_⟩, ⟨?_, ?_⟩, ⟨?_, ?_, ?_⟩, ⟨?_, ?_, ?_⟩, ⟨?_, ?_, ?_, ?_, ?_⟩, ?_, ?_, lists_of ?_⟩
  case refine_5 | refine_7 => unfold State.lockFree; decide +kernel
  all_goals decide +kernel

/-- STOP at rest, with the power given back or not yet asked for, and in motion. -/
theorem witness_StopActsByState :
    (∀ st ∈ [MoverState.idle, .stopped, .ending, .awaitPower, .held, .unlocking, .releasing, .running, .holding], let s := leafIn st 0
        (s.pins.resetLow = false ∧ s.lineIsNext { verb := "STOP".toList, ln := line ["M=0"] } = true ∧
          parseFields (line ["M=0"]).tokens = some (fieldsOf (line ["M=0"]))) ∧
        (s.mv 0).state = st ∧ (s.trig 0).pendingFlag = false ∧ (s.mv 0).exec = some ⟨opening 0, begunAt 0⟩) ∧
      parseMover (fieldsOf (line ["M=0"])) = .ok 0 ∧ (leafIn .held 0).listsSound ∧ (leafIn .awaitPower 0).listsSound :=
  ⟨by decide +kernel, by decide +kernel, lists_of (by decide +kernel), lists_of (by decide +kernel)⟩

theorem witness_EstopStopsTheMover :
    (soundLeaf.executes "ESTOP" (line ["M=0"]) (fieldsOf (line ["M=0"])) ∧ parseMoverOrAll (fieldsOf (line ["M=0"])) = .ok (some 0) ∧
        (soundLeaf.mv 0).state ≠ .unconfigured) ∧
      (soundLeaf.executes "ESTOP" (line ["M=ALL"]) (fieldsOf (line ["M=ALL"])) ∧
        parseMoverOrAll (fieldsOf (line ["M=ALL"])) = .ok none) ∧
      ((soundLeaf.mv 0).state.estopActs = true ∧ soundLeaf.listsSound) ∧ (soundLeaf.mv 6).state.estopActs = false :=
  ⟨⟨runs (by decide +kernel), by decide +kernel, by decide +kernel⟩, ⟨runs (by decide +kernel), by decide +kernel⟩,
    ⟨by decide +kernel, lists_of (by decide +kernel)⟩, by decide +kernel⟩

/-- Leaf M1 with its fault stop complete, each track reporting and one of them not; and not in FAULT. -/
theorem witness_AckfaultReturnsToIdle :
    let mute := tripped.modStn 3 fun x => { x with report := none }
    (∀ s ∈ [tripped, mute], (s.pins.resetLow = false ∧ s.lineIsNext { verb := "ACKFAULT".toList, ln := line ["M=1"] } = true ∧
        parseFields (line ["M=1"]).tokens = some (fieldsOf (line ["M=1"]))) ∧ (s.mv 1).state = .fault ∧
        ((s.mv 1).fault.map FaultRec.primary = some .skew) ∧ (s.mv 1).faultStopComplete = true ∧ (s.trig 1).pendingFlag = false) ∧
      parseMover (fieldsOf (line ["M=1"])) = .ok 1 ∧ tripped.listsSound ∧ mute.listsSound ∧
      tripped.measured 1 = some [7022000, 6980000] ∧ mute.measured 1 = none ∧ (plant.mv 1).state ≠ .fault :=
  ⟨by decide +kernel, by decide +kernel, lists_of (by decide +kernel), lists_of (by decide +kernel), by decide +kernel,
    by decide +kernel, by decide +kernel⟩

/-- Each timer in each state it runs in; TSTOP in FAULT. -/
theorem witness_TimerExpiriesFault :
    let s (st : MoverState) : State := withMover (leafIn st 0) 0 fun x =>
      { x with tlock := some 0, tbrk := some 0, tstop := some 0, alignLeft := some 0 }
    let aligning := withMover (executing plant 1 .align []) 1 fun x => { x with alignLeft := some 0 }
    let stopping := withMover tripped 1 fun x =>
      { x with tstop := some 0, fault := x.fault.map fun f => { f with stopComplete := false } }
    (∀ st ∈ [MoverState.unlocking, .ending, .releasing, .holding, .stopping], (s st).pins.resetLow = false ∧
        ((s st).mv 0).state = st ∧ ((s st).mv 0).tlock.isSome = true ∧ ((s st).mv 0).tbrk.isSome = true ∧
        ((s st).mv 0).tstop.isSome = true) ∧
      (∀ st ∈ [MoverState.unlocking, .ending, .releasing, .holding, .stopping], listsCheck (s st) = true) ∧
      ((aligning.mv 1).state = .running ∧ (aligning.mv 1).alignLeft.isSome = true ∧
        ((aligning.mv 1).exec.any fun e => e.seg.kind == .align) = true ∧ aligning.listsSound) ∧
      ((stopping.mv 1).state = .fault ∧ (stopping.mv 1).fault.map FaultRec.stopComplete = some false ∧
        (stopping.mv 1).tstop.isSome = true) :=
  ⟨by decide +kernel, by decide +kernel, ⟨by decide +kernel, by decide +kernel, by decide +kernel, lists_of (by decide +kernel)⟩,
    by decide +kernel⟩

/-- The marks of mover m's tracks are set. -/
def due (m : MoverNo) (s : State) : State := withMover s m fun x => { x with marks := x.cfg.tracks.map fun _ => true }

/-- A lost track, a tripped drive, a mean one µm beyond the margin, a jammed lock; a lost track and a tripped drive together. -/
theorem witness_FailedChecksFault :
    let lost := due 0 ((leafIn .running 400).modStn 1 fun x => { x with health := .lost })
    let trip := due 0 (tracksAt (leafIn .running 400) 0 0 .tripped .released)
    let beyond := due 0 (tracksAt (leafIn .running 400) 0 20020001 .running .released)
    let edge := due 0 (tracksAt (leafIn .running 400) 0 20020000 .running .released)
    let jam := due 0 ((leafIn .running 400).modStn 6 fun x => { x with report := some ⟨.lock .jammed, 9⟩ })
    let both := due 0 (trip.modStn 1 fun x => { x with health := .lost })
    (∀ s ∈ [lost, trip, beyond, jam, both], s.pins.resetLow = false ∧ (s.mv 0).trackSetComplete = true ∧
        (s.mv 0).positionUnset = false ∧ (s.mv 0).state ≠ .fault ∧ listsCheck s = true) ∧
      (lost.atUpdate 0).failingKinds 0 = [.feedback] ∧ (trip.atUpdate 0).failingKinds 0 = [.drive] ∧
      (beyond.atUpdate 0).failingKinds 0 = [.overtravel] ∧ (edge.atUpdate 0).failingKinds 0 = [] ∧
      (jam.atUpdate 0).failingKinds 0 = [.lock] ∧ (both.atUpdate 0).failingKinds 0 = [.feedback, .drive] := by
  decide +kernel

theorem updates_of {s : State} {m : MoverNo}
    (h : s.pins.resetLow = false ∧ (s.mv m).trackSetComplete = true ∧ (s.mv m).positionUnset = false ∧
      (s.atUpdate m).failingKinds m = []) : s.updates m := ⟨h.1, h.2.1, h.2.2.1, h.2.2.2⟩

/-- The leaf in a state with its tracks reporting a drive state and a brake at 0. -/
def leafReports (st : MoverState) (d : DriveState) (b : BrakeReport) (f : Mover → Mover) : State :=
  due 0 (tracksAt (withMover (leafIn st (if st.holdsGrant then 400 else 0)) 0 f) 0 0 d b)

/-- The confirmation awaited in each state, at the update that brings it. -/
theorem witness_ConfirmationsBringTheMoverOn :
    let rest := due 0 plant
    let unset := due 0 (withMover plant 0 fun x => { x with positionUnset := true })
    let unlocking := leafReports .unlocking .ready .applied id
    let braking := leafReports .holding .ready .applied fun x => { x with brakeOrdered := true }
    let stopping := leafReports .holding .ready .applied fun x => { x with brakeOrdered := true, stopInProgress := true }
    let ending := leafReports .ending .ready .applied fun x => { x with exec := none }
    let halting := leafReports .stopping .ready .applied fun x => { x with exec := none }
    (rest.updates 0 ∧ (rest.moverAtUpdate 0).state = .idle) ∧
      (unset.pins.resetLow = false ∧ (unset.mv 0).trackSetComplete = true ∧ (unset.moverAtUpdate 0).state = .idle ∧
        (unset.moverAtUpdate 0).positionUnset = true ∧ unset.measured 0 = some [0, 0] ∧ (∀ c, unset.rule c = none) ∧
        ((unset.atUpdate 0).setMv 0 { unset.moverAtUpdate 0 with p := 0, residue := 0, positionUnset := false }).failingKinds 0 = []) ∧
      (unlocking.updates 0 ∧ (unlocking.moverAtUpdate 0).state = .unlocking ∧ unlocking.lockReport 0 = some .withdrawn) ∧
      (braking.updates 0 ∧ (braking.moverAtUpdate 0).state = .holding ∧ (braking.moverAtUpdate 0).brakeOrdered = true ∧
        (braking.moverAtUpdate 0).stopInProgress = false ∧ braking.listsSound ∧ ∀ c, braking.rule c = none) ∧
      (stopping.updates 0 ∧ (stopping.moverAtUpdate 0).stopInProgress = true ∧ (stopping.moverAtUpdate 0).exec.isSome = true ∧
        stopping.listsSound ∧ (stopping.trig 0).pendingFlag = false) ∧
      (ending.updates 0 ∧ (ending.moverAtUpdate 0).state = .ending ∧ (ending.moverAtUpdate 0).endLock = false ∧ ending.listsSound) ∧
      (halting.updates 0 ∧ (halting.moverAtUpdate 0).state = .stopping ∧ halting.measured 0 = some [0, 0] ∧ halting.listsSound) ∧
      -- every track is ONLINE, READY and APPLIED in these states
      ∀ s ∈ [braking, stopping, ending, halting], ∀ st ∈ (s.moverAtUpdate 0).cfg.tracks, s.isOnline st = true ∧
        s.driveReport st = some (0, .ready, .applied) := by
  refine ⟨⟨updates_of ?_, ?_⟩, ?_, ⟨updates_of ?_, ?_, ?_⟩, ⟨updates_of ?_, ?_, ?_, ?_, lists_of ?_, ?_⟩,
    ⟨updates_of ?_, ?_, ?_, lists_of ?_, ?_⟩, ⟨updates_of ?_, ?_, ?_, lists_of ?_⟩, ⟨updates_of ?_, ?_, ?_, lists_of ?_⟩, ?_⟩
  all_goals decide +kernel

/-- The leaf 60 µm short of its target, which it does not reach, and 3 µm short of it, which it does. -/
theorem witness_ProfileAdvancesOrArrives :
    let far := due 0 (leafAt 11999940 1500 300 [])
    let near := due 0 (leafAt 11999997 1140 740 [])
    (∀ s ∈ [far, near], (s.moverAtUpdate 0).state = .running ∧ (s.moverAtUpdate 0).exec = some ⟨opening 0, begunAt 0⟩ ∧
        (opening 0).kind = .move 12000 150 20 25 ∧ (begunAt 0).dir = some .outward ∧ (s.moverAtUpdate 0).dir = some .outward ∧
        s.measured 0 = some [(s.mv 0).p, (s.mv 0).p] ∧ (s.moverAtUpdate 0).chain = [] ∧ (∀ c, s.rule c = none) ∧
        (s.moverAtUpdate 0).skewWarn = false ∧ ((s.mv 0).trimFrom (s.mv 0).p [(s.mv 0).p, (s.mv 0).p]).skew = 0 ∧
        ((s.mv 0).trimFrom (s.mv 0).p [(s.mv 0).p, (s.mv 0).p]).mean = (s.mv 0).p ∧ (s.mv 0).cfg.tracks.Nodup) ∧
      (far.updates 0 ∧ (1732 * 20 + 300) / 1000 < 60) ∧ (near.updates 0 ∧ 3 ≤ (387 * 20 + 740) / 1000 ∧ near.listsSound) := by
  refine ⟨?_, ⟨updates_of ?_, ?_⟩, ⟨updates_of ?_, ?_, lists_of ?_⟩⟩ <;> decide +kernel

/-- The gate's DWELL with an empty chain, and with a MOVE behind it, whose request is above the grant and below it. -/
theorem witness_DwellExpiryCompletesTheDwell :
    let next := segment 7 2 702 (.move 9000 100 10 10)
    let last := (executing plant 7 (.dwell 5000) []).setGrant 7 12
    let more (g : Nat) : State := (executing plant 7 (.dwell 5000) [next]).setGrant 7 g
    (∀ s ∈ [last, more 12, more 120], s.pins.resetLow = false ∧ (s.mv 7).state = .running ∧
        ((s.mv 7).exec.any fun e => e.seg.kind == .dwell 5000 && e.part.startTime.isSome) = true ∧ listsCheck s = true) ∧
      (last.mv 7).chain = [] ∧ (more 12).motionRoom ∧
      ((more 12).mv 7).chain = next :: [] ∧ (∀ c, (more 12).rule c = none) ∧ next.kind ≠ .align ∧
      ((more 12).mv 7).targetUsed 9000 ≠ ((more 12).mv 7).p ∧
      (((more 12).mv 7).request 7 next.kind).req = 120 ∧ (more 12).grant 7 < 120 ∧ 120 ≤ (more 120).grant 7 := by
  refine ⟨?_, ?_, ?_, ?_, ?_, ?_, ?_, ?_, ?_, ?_⟩
  case refine_3 => unfold State.motionRoom; decide +kernel
  all_goals decide +kernel

/-! ## Witnesses of single clauses: the tests of a refusal, several movers at once, discards and late frames, rules freed and granted,
supervision, entries, stops and boundaries -/

/-- A line of a verb is executed and its block refuses it with a reason. -/
def turnsAway (verb : String) (act : Act) (ts : List String) (s : State) (r : Reason) : Bool :=
  !s.pins.resetLow && s.lineIsNext { verb := verb.toList, ln := line ts } &&
    parseFields (line ts).tokens == some (fieldsOf (line ts)) &&
    match act (fieldsOf (line ts)) s.leaveBuffer with
    | .error e => e == r
    | .ok _ => false

/-- The plant with the link lost. -/
def linkLost (s : State) : State := { s with link := { s.link with sup := { s.link.sup with lost := some .timeout } } }

/-- The plant with STOPIN open. -/
def stopped (s : State) : State := { s with pins := { s.pins with stopOpen := true } }

/-- The plant with rule C0 in a state. -/
def ruled (st : RuleState) : State := plant.setRule 0 (some (ruleZero st []))

/-- R9, R17, R18, R28: each test of GO, HOLD, RESUME, STOP, ESTOP and ACKFAULT in its turn, on a state that passes those before it. -/
theorem witness_RefusedCommandsChangeNothing_movers :
    let unset := withMover leafStaged 0 fun x => { x with positionUnset := true }
    let incomplete := withMover tripped 1 fun x => { x with fault := x.fault.map fun f => { f with stopComplete := false } }
    let standing := (withMover tripped 1 fun x => { x with fault := x.fault.map fun f => { f with primary := .feedback } }).modStn 2
      fun x => { x with health := .lost }
    (([(["M=2"], stopped (linkLost plant), .undefined), (["M=0"], stopped (linkLost plant), .stopOpen),
        (["M=0"], linkLost (leafIn .running 400), .linkLost), (["M=0"], leafIn .running 400, .busy), (["M=0"], plant, .chainEmpty),
        (["M=0"], unset, .feedback), (["M=8"], plant, .range), (["M=A"], plant, .format)] : List (List String × State × Reason)).all
      fun a => turnsAway "GO" actGo a.1 a.2.1 a.2.2) = true ∧
      (turnsAway "HOLD" actHold ["M=2"] plant .undefined && turnsAway "ESTOP" actEstop ["M=2"] plant .undefined) = true ∧
      (([(["M=2"], linkLost plant, .undefined), (["M=0"], stopped (linkLost (leafIn .stopped 0)), .stopOpen),
        (["M=1"], linkLost tripped, .linkLost), (["M=1"], tripped, .busy)] : List (List String × State × Reason)).all
      fun a => turnsAway "RESUME" actResume a.1 a.2.1 a.2.2) = true ∧
      (turnsAway "STOP" actStop ["M=2"] plant .undefined && turnsAway "STOP" actStop ["M=0"] (leafIn .stopping 0) .busy) = true ∧
      (turnsAway "ACKFAULT" actAckfault ["M=2"] plant .undefined && turnsAway "ACKFAULT" actAckfault ["M=1"] incomplete .busy &&
        turnsAway "ACKFAULT" actAckfault ["M=1"] standing .causePresent) = true := by
  decide +kernel

/-- R39, R104, R110, R135, R136, R171, R175: the tests of the pool's, the arbiter's, the clearance, the trigger and the link verbs. -/
theorem witness_RefusedCommandsChangeNothing_tables :
    let stage := ["M=7", "TAG=1", "KIND=ALIGN"]
    let full := withMover plant 7 fun x => { x with record := some { gate with cap := 1 }, chain := [segment 7 200 1 (.dwell 5)] }
    let empty : State := { full with pool := { free := [] } }
    let rule (g k : String) : List String := ["C=0", "G=" ++ g, "ZLO=3000", "ZHI=97000", "K=" ++ k, "RLO=11950", "RHI=12050"]
    let unset := withMover plant 6 fun x => { x with positionUnset := true }
    let inside := withMover plant 6 fun x => { x with p := 5000000 }
    (turnsAway "STAGE" actStage ["M=2", "TAG=1", "KIND=ALIGN"] empty .undefined && turnsAway "STAGE" actStage stage empty .poolEmpty &&
        turnsAway "STAGE" actStage stage full .chainFull && turnsAway "FLUSH" actFlush ["M=2"] plant .undefined) = true ∧
      turnsAway "SETPOWER" actSetpower ["BUDGET=559"] (contended .priority) .budgetInUse = true ∧
      (turnsAway "DEFRULE" actDefrule ["C=0"] (ruled .held) .busy && turnsAway "DEFRULE" actDefrule (rule "2" "2") (ruled .held) .conflict &&
        turnsAway "DEFRULE" actDefrule (rule "2" "7") (ruled .held) .undefined &&
        turnsAway "DEFRULE" actDefrule (rule "6" "7") (ruled .held) .busy &&
        turnsAway "DEFRULE" actDefrule (rule "0" "7") (leafIn .running 400) .busy &&
        turnsAway "DEFRULE" actDefrule (rule "6" "7") unset .feedback && turnsAway "DEFRULE" actDefrule (rule "6" "7") inside .conflict) =
          true ∧
      (turnsAway "SETPLAN" actSetplan ["M=2"] plant .undefined && turnsAway "SETTRIG" actSettrig ["M=2", "MASK=1"] plant .undefined) =
          true ∧
      (turnsAway "SUPERVISE" actSupervise ["ON=1", "UP=100"] (linkLost plant) .linkLost &&
        turnsAway "CLEARALL" actClearall [] (leafIn .running 400) .busy) = true := by
  decide +kernel

/-- R3: the tests of DEFMOVER, in their order. -/
theorem witness_RefusedCommandsChangeNothing_defmover :
    let away (s : State) (r : Reason) : Bool := turnsAway "DEFMOVER" actDefmover (gateLine.tokens.map String.ofList) s r
    (away (withMover (ruled .free) 7 fun x => { x with state := .running }) .busy && away (ruled .free) .conflict &&
      away { plant with stations := plant.stations.set 12 none } .undefined &&
      away (plant.modStn 12 fun x => { x with owner := some 6 }) .conflict &&
      away (plant.modLine .B fun c => { c with polling := false }) .conflict &&
      away (plant.modStn 12 fun x => { x with line := .A }) .conflict &&
      away (withMover plant 7 fun x => { x with chain := List.replicate 17 (segment 7 0 1 (.dwell 5)) }) .conflict) = true := by
  decide +kernel

/-- R127, R143, R146, R157: the tests of SETWX, DEFLINE, DEFSTN and SERVICE. -/
theorem witness_RefusedCommandsChangeNothing_lines :
    let wx (src : String) : List String := ["SRC=" ++ src, "W1=100", "W2=180", "GH=250", "REL=10"]
    let busyGate := withMover plant 7 fun x => { x with state := .running }
    let asked := plant.modLine .B fun c =>
      { c with queue := List.replicate 4 { id := 0, station := 8, write := false, par := 0, val := none } }
    let crowded : State :=
      { plant with stations := Vector.ofFn fun st : Fin 24 => if st.val < 12 then station .A (st.val + 1) .lock none false (.lock .moving) else none }
    (turnsAway "SETWX" actSetwx (wx "23") plant .undefined && turnsAway "SETWX" actSetwx (wx "1") plant .conflict) = true ∧
      (turnsAway "DEFLINE" actDefline ["L=B"] busyGate .busy && turnsAway "DEFLINE" actDefline ["L=B"] plant .conflict &&
        turnsAway "DEFLINE" actDefline ["L=B", "PER=20"] plant .conflict) = true ∧
      (turnsAway "DEFSTN" actDefstn ["ST=12"] busyGate .busy && turnsAway "DEFSTN" actDefstn ["ST=4"] plant .conflict &&
        turnsAway "DEFSTN" actDefstn ["ST=12"] plant .conflict &&
        turnsAway "DEFSTN" actDefstn ["ST=23", "LINE=B", "ADDR=6", "TYPE=LOCK"] plant .conflict &&
        turnsAway "DEFSTN" actDefstn ["ST=23", "LINE=A", "ADDR=31", "TYPE=LOCK"] crowded .conflict) = true ∧
      (turnsAway "SERVICE" actService ["ST=23", "OP=READ", "PAR=1"] plant .undefined &&
        turnsAway "SERVICE" actService ["ST=8", "OP=READ", "PAR=1"] (asked.modLine .B fun c => { c with polling := false }) .conflict &&
        turnsAway "SERVICE" actService ["ST=8", "OP=READ", "PAR=1"] asked .queueFull) = true := by
  decide +kernel

/-- Leaf M0 running on 400 of 410 kW, leaf M1 and the gate waiting for power: the release of M0 lets M1 be granted. -/
def awaiting : State :=
  let s := withMover (leafIn .running 400) 1 fun x => { x with state := .awaitPower, exec := some ⟨opening 1, {}⟩ }
  let s := withMover s 7 fun x => { x with state := .awaitPower, exec := some ⟨segment 7 1 701 (.move 9000 100 10 10), {}⟩ }
  { s with power := { s.power with budget := 410, waiting := [⟨1, 400, 54⟩, ⟨7, 120, 12⟩] } }

theorem awaiting_lists : awaiting.listsSound := lists_of (by decide +kernel)

/-- Two movers wait with their entries, and a step is taken. -/
theorem witness_ListsStayInAgreementWithStates_waiting :
    let s : State := { awaiting with pending := [.estop (line ["M=0"])] }
    s.listsSound ∧ s.requestsWait ∧ (s.mv 1).state = .awaitPower ∧ ∃ t, step s = .next t :=
  ⟨lists_of (by decide +kernel), by unfold State.requestsWait; decide +kernel, by decide +kernel, goes_on (by decide +kernel)⟩

/-- ESTOP M=ALL with a moving and two waiting movers, and with STOPIN opening on them. -/
theorem witness_EstopStopsTheMover_several :
    awaiting.executes "ESTOP" (line ["M=ALL"]) (fieldsOf (line ["M=ALL"])) ∧
      parseMoverOrAll (fieldsOf (line ["M=ALL"])) = .ok none ∧ awaiting.listsSound ∧
      (∀ m ∈ ([0, 1, 7] : List MoverNo), (awaiting.mv m).state.estopActs = true) ∧ (awaiting.mv 6).state.estopActs = false ∧
      awaiting.pins.stopOpen = false :=
  ⟨runs (by decide +kernel), by decide +kernel, awaiting_lists, by decide +kernel, by decide +kernel, by decide +kernel⟩

/-- HOLD M=ALL with a moving and two waiting movers, none on a rule's list. -/
theorem witness_HoldReasonsActByState_all :
    awaiting.executes "HOLD" (line ["M=ALL"]) (fieldsOf (line ["M=ALL"])) ∧ parseMoverOrAll (fieldsOf (line ["M=ALL"])) = .ok none ∧
      awaiting.listsSound ∧ (∀ c u, awaiting.rule c = some u → u.waiting = []) ∧ (awaiting.mv 0).state = .running ∧
      (∀ m ∈ ([1, 7] : List MoverNo), (awaiting.mv m).state = .awaitPower) := by
  refine ⟨runs (by decide +kernel), by decide +kernel, awaiting_lists, fun c u h => ?_, by decide +kernel, by decide +kernel⟩
  simpa using rules_all (p := fun _ u => u.waiting.isEmpty) (by decide +kernel) c u h

/-- R20, R100: the opening of STOPIN leaves no grant and no request, and logs the segments CUT in mover number order. -/
theorem test_stopin_opening_several :
    gives .stopinOpening awaiting (fun t =>
        t.power.waiting == [] && (allMovers.all fun m => t.grant m == 0) && (t.mv 1).state == .stopping && (t.mv 7).state == .stopping &&
        t.pool.log.map (fun r => (r.seg.mover, r.outcome)) == [(0, .cut), (1, .cut), (7, .cut)]) = true := by
  decide +kernel

/-- A frame that carries a payload where it is expected. -/
theorem witness_ReportFramesAreReadBack_converse :
    framePayload ⟨makeFrame 2 2 41 (braked 77).payload, false, false⟩ 2 2 41 = some (braked 77).payload ∧
      decodeReport .drive (braked 77).payload = some (braked 77) := by
  decide +kernel

/-- A POLLING line with no station that turns OFF with a service in flight and one waiting; line B that stays POLLING with a service in
flight, in time and overdue; an OFF line with a STALE and a LOST source that a new MISS reaches. -/
theorem witness_DeflineActsByTheLinesState_discards :
    let r : ServiceRequest := { id := 0, station := 9, write := false, par := 12, val := none }
    let off := line ["L=A"]
    let keep := line ["L=B", "PER=40", "TMO=8", "MISS=2"]
    let on := line ["L=A", "PER=20", "TMO=5", "MISS=2"]
    let busy := (lineAlone true).modLine .A fun c => { c with phase := .serviceExchange r, queue := [r], response := some 4 }
    let overdue := reading.modLine .B fun c => { c with overdue := true, period := none }
    let asleep : State :=
      let s := plant.modLine .A fun c => { c with polling := false, period := none, record := some ⟨20, 5, 4⟩, current := ⟨20, 5, 4⟩ }
      let s := s.modStn 4 fun x => { x with health := .stale, misses := 2 }
      { s.modStn 5 fun x => { x with health := .lost, misses := 4 } with movers := Vector.replicate 8 {} }
    (busy.executes "DEFLINE" off (fieldsOf off) ∧ parseDefline (fieldsOf off) = .ok (.A, none) ∧ (busy.line .A).polling = true ∧
        (busy.line .A).requests = [r, r] ∧ (∀ st, busy.stn st = none)) ∧
      (reading.executes "DEFLINE" keep (fieldsOf keep) ∧ overdue.executes "DEFLINE" keep (fieldsOf keep) ∧
        parseDefline (fieldsOf keep) = .ok (.B, some ⟨40, 8, 2⟩) ∧ (reading.line .B).polling = true ∧ reading.period .B = 40 ∧
        (reading.line .B).phase = .serviceExchange r ∧ (overdue.line .B).phase = .serviceExchange r ∧
        (reading.line .B).overdue = false ∧ (overdue.line .B).overdue = true ∧
        ∀ m, (reading.mv m).state ≠ .unconfigured → (reading.mv m).atRest = true) ∧
      (asleep.executes "DEFLINE" on (fieldsOf on) ∧ parseDefline (fieldsOf on) = .ok (.A, some ⟨20, 5, 2⟩) ∧
        (asleep.line .A).polling = false ∧ (asleep.line .A).phase = .betweenRounds ∧ (asleep.line .A).queue = [] ∧
        (asleep.line .A).current.miss ≠ 2 ∧ (∀ m, (asleep.mv m).state = .unconfigured) ∧
        ((asleep.stn 4).any fun x => x.falls .A 2 && x.source) = true ∧ (asleep.stn 5).map Station.health = some .lost) := by
  refine ⟨⟨runs (by decide +kernel), ?_, ?_, ?_, ?_⟩, ⟨runs (by decide +kernel), runs (by decide +kernel), ?_, ?_, ?_, ?_, ?_, ?_, ?_, ?_⟩,
    ⟨runs (by decide +kernel), ?_, ?_, ?_, ?_, ?_, ?_, ?_, ?_⟩⟩ <;> decide +kernel

/-- R144: the new MISS makes the STALE source LOST, and its loss is posted. -/
theorem test_new_miss :
    let s := (plant.modLine .A fun c => { c with record := some ⟨20, 5, 1⟩ }).modStn 4 fun x => { x with health := .stale, misses := 1 }
    gives (.linePeriodExpiry .A) s (fun t =>
        (t.stn 4).map Station.health == some .lost && t.notices.line.queue == [⟨.stationLost 4 .A 5 none, 1000⟩] &&
        t.posted == [.sourceLoss 4]) = true := by
  decide +kernel

/-- The gate's station S12 defined again during its exchange, with a request for it waiting, and during its service exchange. -/
theorem witness_DefstnDefinesAndDeletes_discards :
    let again := line ["ST=12", "LINE=B", "ADDR=31", "TYPE=DRIVE"]
    let r : ServiceRequest := { id := 0, station := 12, write := false, par := 12, val := none }
    let asked := plant.modLine .B fun c => { c with phase := .exchange 12, response := some 5, queue := [r] }
    let served := plant.modLine .B fun c => { c with phase := .serviceExchange r, response := some 5 }
    (asked.executes "DEFSTN" again (fieldsOf again) ∧ served.executes "DEFSTN" again (fieldsOf again)) ∧
      parseDefstn (fieldsOf again) = .ok (12, some ⟨.B, 31, .drive⟩) ∧
      (∀ s ∈ [asked, served],
        ((s.stn 12).any fun x => decide (x.source = false ∧ x.owner = some 7 ∧ x.type = .drive ∧ x.line = .B)) = true ∧
        (s.mv 7).atRest = true ∧ (s.line .B).record = some (s.line .B).current ∧
        (allStations.all fun o => (s.stn o).all fun y => decide (y.addr ≠ 31)) = true ∧
        (allStations.countP fun o => o != 12 && (s.stn o).any fun y => y.line == .B) < 12) ∧
      ((asked.line .B).phase = .exchange 12 ∧ (asked.line .B).requests = [r] ∧ (served.line .B).phase = .serviceExchange r) := by
  refine ⟨⟨runs (by decide +kernel), runs (by decide +kernel)⟩, ?_, ?_, ?_⟩ <;> decide +kernel

/-- A late frame during a service exchange and during an exchange of a station; a frame that is not late between rounds; the line whose
MISS changes with the next round. -/
theorem witness_late_frames_and_new_miss :
    let late : Frame := ⟨makeFrame 2 2 40 (braked 77).payload, false, true⟩
    let s := plant.modLine .A fun c => { c with record := some ⟨20, 5, 1⟩ }
    late.late = true ∧ (asking 2).pins.resetLow = false ∧ (plant.line .A).phase = .betweenRounds ∧
      (s.pins.resetLow = false ∧ (s.line .A).polling = true ∧ (s.line .A).period = some 3 ∧ (s.line .A).phase = .betweenRounds ∧
        (s.line .A).record = some ⟨20, 5, 1⟩ ∧ (s.line .A).current.miss ≠ 1) := by
  decide +kernel

/-- R149: a frame received after its exchange leaves the next exchange as it is. -/
theorem test_late_frame :
    gives (.frameReceived .A ⟨makeFrame 2 2 41 (braked 77).payload, false, true⟩) (asking 2) (fun t => t == asking 2) = true := by
  decide +kernel

/-- R128: the loss of a source that has never reported, with none live before it, sends NO_SOURCE. -/
theorem test_source_loss_unreported :
    let lost := plant.modStn 4 fun x => { x with health := .lost, report := none }
    gives (.sourceLoss 4) { lost with wx := { lost.wx with sources := [4], figure := none, derate := 0, hold := .engaged } }
      (fun t => t.notices.weather.queue == [⟨.noSource, 1000⟩]) = true := by
  decide +kernel

/-- R175, R20: with STOPIN open the reply of the CLEARALL goes before STOP_OPEN, which waits in its queue. -/
theorem test_clearall_stop_open :
    gives (.clearall (line [])) { plant with pins := { stopOpen := true }, link := { plant.link with tx := none } }
      (fun t => t.notices.safety.queue == [⟨.stopOpen, 1000⟩] && t.link.replies == [] && t.link.tx.isSome) = true := by
  decide +kernel

/-- The stopped tray outside the zone with C0 HELD, and the gate held for C0 alone. -/
def freeing : State :=
  let s := withMover plant 6 fun x => { x with state := .stopped }
  let s := withMover s 7 fun x =>
    { x with state := .held, holdSet := { clearance := [0] }, exec := some ⟨segment 7 1 701 (.move 12000 100 10 10), {}⟩ }
  s.setRule 0 (some (ruleZero .held [7]))

/-- RESUME's OPERATOR leaves the tray with C0 its own, and OPEN with the gate in the region; the stopped tray outside the zone with C0
HELD, for which the gate is held. -/
theorem witness_RemovalsWakeByState_rules :
    (∀ s ∈ [trayHeld .held 0, trayHeld .free 12000000], (s.mv 6).execPath = some ⟨1000000, 100000000⟩ ∧ (s.mv 6).chain = [] ∧
        (s.mv 6).exec.any (fun e => e.part.startTime.isSome) = true ∧ (s.mv 6).state = .holding ∧
        (s.mv 6).brakeOrdered = false ∧ (s.mv 6).stopInProgress = false ∧
        (allRules.all fun c => c == 0 || (s.rule c).isNone) = true) ∧
      ((ruleZero .held []).has 6 = true ∧ (trayHeld .free 12000000).wouldGrant (ruleZero .free []) 6 .held) ∧
      (freeing.executes "RESUME" (line ["M=6"]) (fieldsOf (line ["M=6"])) ∧ parseMover (fieldsOf (line ["M=6"])) = .ok 6 ∧
        (freeing.mv 6).state = .stopped ∧ freeing.link.sup.lost = none ∧ freeing.pins.stopOpen = false ∧ freeing.listsSound ∧
        (freeing.trig 6).pendingFlag = false ∧ (freeing.mv 6).exec = none ∧
        (∀ c u, freeing.rule c = some u → ∀ w ∈ u.waiting, (freeing.mv w).state = .held) ∧
        freeing.restFrees 6 (freeing.mv 6).p (ruleZero .held [7]) = some .released) := by
  refine ⟨by decide +kernel, ⟨by decide +kernel, by unfold State.wouldGrant; decide +kernel⟩,
    runs (by decide +kernel), by decide +kernel, by decide +kernel, by decide +kernel, by decide +kernel, lists_of (by decide +kernel),
    by decide +kernel, by decide +kernel, fun c u h => ?_, by decide +kernel⟩
  simpa using rules_all (p := fun _ u => u.waiting.all fun w => decide ((freeing.mv w).state = .held)) (by decide +kernel) c u h

/-- R120, R121: the stopped tray's rule is freed with RESUME, and the gate held for it alone asks for power. -/
theorem test_freeing :
    gives (.resume (line ["M=6"])) freeing (fun t =>
      t.rule 0 == some (ruleZero .released []) && (t.mv 7).holdSet == {} && (t.mv 7).state == .releasing && t.grant 7 == 120) =
        true := by
  decide +kernel

/-- Leaf M1 on a MOVE at 5,000,000 µm, its tracks `skew` apart about it and its figure of p aside by `lag`. -/
def leafSkewed (st : MoverState) (skew lag : Int) (warn : Bool) : State :=
  let s := (executing plant 1 (.move 9000 150 20 25) []).setGrant 1 400
  let s := withMover s 1 fun x =>
    { x with
      state := st, p := 5000000 + lag, dir := some .outward, skewWarn := warn
      exec := x.exec.map fun e => { e with part := begunAt 4000000 } }
  let s := s.modStn 2 fun x => { x with report := some ⟨.drive (5000400 + skew) .running .released, 9⟩ }
  withMover (s.modStn 3 fun x => { x with report := some ⟨.drive (5000000 - 1500) .running .released, 9⟩ }) 1 fun x =>
    { x with marks := x.cfg.tracks.map fun _ => true }

/-- A skew one µm below the trip level of 40 mm and at it, in RUNNING and HOLDING; a follow error at FOL and one µm above it, alone and
with a trip; the warning set at SKW, kept at SKW − SKH and cleared below it. -/
theorem witness_FailedChecksFault_supervision :
    let sound (s : State) : Prop := s.updates 1 ∧ s.listsSound
    let skew (s : State) : Option Int := (s.moverAtUpdate 1).trim.map Trim.skew
    let lag (s : State) : Option Int := (s.moverAtUpdate 1).trim.map fun t => |(s.mv 1).p - t.mean|
    (sound (leafSkewed .running 39999 20000 false) ∧ sound (leafSkewed .running 40000 20000 false) ∧
        sound (leafSkewed .holding 40000 20000 false) ∧ sound (leafSkewed .running 0 50000 false) ∧
        sound (leafSkewed .running 0 50001 false) ∧ sound (leafSkewed .running 40000 70001 false) ∧
        sound (leafSkewed .running 25000 12500 false) ∧ sound (leafSkewed .holding 20000 10000 true) ∧
        sound (leafSkewed .running 19999 10000 true)) ∧
      (skew (leafSkewed .running 39999 20000 false) = some 39999 ∧ skew (leafSkewed .running 40000 20000 false) = some 40000 ∧
        lag (leafSkewed .running 0 50000 false) = some 50000 ∧ lag (leafSkewed .running 0 50001 false) = some 50001 ∧
        lag (leafSkewed .running 40000 70001 false) = some 50001 ∧ ((leafSkewed .running 0 0 false).mv 1).cfg.fol = 50 ∧
        ((leafSkewed .running 25000 12500 false).moverAtUpdate 1).warnAfter 25000 = true ∧
        ((leafSkewed .holding 20000 10000 true).moverAtUpdate 1).warnAfter 20000 = true ∧
        ((leafSkewed .running 19999 10000 true).moverAtUpdate 1).warnAfter 19999 = false) := by
  refine ⟨⟨⟨updates_of ?_, lists_of ?_⟩, ⟨updates_of ?_, lists_of ?_⟩, ⟨updates_of ?_, lists_of ?_⟩, ⟨updates_of ?_, lists_of ?_⟩,
    ⟨updates_of ?_, lists_of ?_⟩, ⟨updates_of ?_, lists_of ?_⟩, ⟨updates_of ?_, lists_of ?_⟩, ⟨updates_of ?_, lists_of ?_⟩,
    ⟨updates_of ?_, lists_of ?_⟩⟩, ?_⟩ <;> decide +kernel

/-- R82: a skew at the trip level is a SKEW fault, one µm below it none; R85: in HOLDING, too, the peak skew is raised. -/
theorem test_skew_trip :
    gives (.trackSetComplete 1) (leafSkewed .running 40000 20000 false)
        (fun t => (t.mv 1).fault.map FaultRec.primary == some .skew) = true ∧
      gives (.trackSetComplete 1) (leafSkewed .running 39999 20000 false)
        (fun t => (t.mv 1).state == .running && ((t.mv 1).exec.map fun e => e.part.peakSkew) == some 39999) = true ∧
      gives (.trackSetComplete 1)
        (withMover (leafSkewed .holding 30000 15000 false) 1 fun x => { x with exec := some ⟨opening 1, {}⟩, brakeOrdered := true })
        (fun t => ((t.mv 1).exec.map fun e => e.part.peakSkew) == some 30000) = true := by
  decide +kernel

/-- The leaf in RELEASING with a segment, its brakes reported released. -/
def leafReleased (kind : SegKind) (part : ExecPart) (chain : List Segment) : State :=
  leafReports .releasing .ready .released fun x => { x with exec := some ⟨segment 0 9 701 kind, part⟩, chain := chain, tbrk := some 7 }

/-- The tray in RELEASING before C0, which the gate has, its brakes reported released. -/
def trayReleased : State :=
  let s := withMover (plant.setRule 0 (some (ruleZero .released []))) 6 fun x =>
    { x with state := .releasing, exec := some ⟨segment 6 3 600 (.move 100000 60 10 10), {}⟩ }
  due 6 (tracksAt s 6 1000000 .ready .released)

/-- Leaf M1 in FAULT with its stop not complete, its tracks reporting. -/
def faulted (d : DriveState) (b : BrakeReport) : State :=
  due 1 (tracksAt (withMover tripped 1 fun x =>
    { x with tstop := some 9, fault := x.fault.map fun f => { f with stopComplete := false } }) 1 6999000 d b)

/-- Leaf M0 on its ALIGN, set up at 0, the tracks at 0. -/
def aligned (chain : List Segment) : State :=
  due 0 (tracksAt (withMover (executing plant 0 .align chain) 0 fun x => { x with alignLeft := some 9 }) 0 0 .running .released)

/-- RELEASING with a segment that has begun, a MOVE outward, a MOVE inward, a MOVE of no length, a DWELL, and an ALIGN whose tracks lie
apart by more than SKH about their mean; an entry that C0 refuses. -/
theorem witness_ConfirmationsBringTheMoverOn_entries :
    let move (dest : Int) : SegKind := .move dest 150 20 25
    let begun := leafReleased (move 12000) (begunAt 0) []
    let outward := leafReleased (move 12000) {} []
    let inward := tracksAt (withMover outward 0 fun x => { x with exec := some ⟨segment 0 9 701 (move 0), {}⟩, p := 5000000 }) 0 5000000
      .ready .released
    let still := leafReleased (move 0) {} []
    let dwell := leafReleased (.dwell 5) {} []
    let apart := (leafReleased .align {} []).modStn 1 fun x => { x with report := some ⟨.drive 22000 .ready .released, 9⟩ }
    (∀ s ∈ [begun, outward, inward, still, dwell, apart], s.updates 0) ∧
      (∀ s ∈ [begun, outward, inward, still, dwell, apart], (s.moverAtUpdate 0).state = .releasing ∧ (∀ c, s.rule c = none) ∧
        (∀ st ∈ (s.moverAtUpdate 0).cfg.tracks, s.isOnline st = true ∧ (s.driveReport st).map (fun r => r.2.2) = some .released) ∧
        (s.moverAtUpdate 0).skewWarn = false ∧ (s.moverAtUpdate 0).chain = []) ∧ still.listsSound ∧
      (∀ s ∈ [begun, outward, inward, still, dwell], ((s.moverAtUpdate 0).trim.map fun t => (t.skew, t.mean)) = some (0, (s.mv 0).p)) ∧
      (((inward.moverAtUpdate 0).targetUsed 0 < 5000000) ∧ 0 < (outward.moverAtUpdate 0).targetUsed 12000 ∧
        (still.moverAtUpdate 0).targetUsed 0 = 0) ∧
      (((apart.moverAtUpdate 0).trim.map fun t => (t.skew, t.mean, t.measured)) = some (22000, 11000, [0, 22000]) ∧
        ((apart.mv 0).cfg.skh : Int) * 1000 < |11000 - 0| ∧ 22000 < ((apart.mv 0).cfg.skw : Int) * 1000) ∧
      (trayReleased.updates 6 ∧ (trayReleased.moverAtUpdate 6).state = .releasing ∧ (trayReleased.moverAtUpdate 6).holdSet = {} ∧
        (trayReleased.moverAtUpdate 6).execPath = some ⟨1000000, 100000000⟩ ∧
        (ruleZero .released []).met ⟨1000000, 100000000⟩ = true ∧ trayReleased.rule 0 = some (ruleZero .released []) ∧
        (∀ st ∈ (trayReleased.moverAtUpdate 6).cfg.tracks,
          trayReleased.isOnline st = true ∧ (trayReleased.driveReport st).map (fun r => r.2.2) = some .released) ∧
        ((trayReleased.moverAtUpdate 6).trim.map fun t => (t.skew, t.mean)) = some (0, 1000000)) := by
  refine ⟨fun s h => ?_, ?_, lists_of ?_, ?_, ?_, ?_, updates_of ?_, ?_⟩
  case refine_1 => simp only [List.mem_cons, List.not_mem_nil, or_false] at h; rcases h with rfl | rfl | rfl | rfl | rfl | rfl <;> exact updates_of (by decide +kernel)
  all_goals decide +kernel

/-- The fault stop with a drive running, at rest with the brake open, and braked; an ALIGN whose tracks agree, with an empty chain and
with a MOVE behind it. -/
theorem witness_ConfirmationsBringTheMoverOn_stops :
    let reports (s : State) : List (Option (DriveState × BrakeReport)) :=
      (s.moverAtUpdate 1).cfg.tracks.map fun st => (s.driveReport st).map fun r => r.2
    (∀ s ∈ [faulted .running .released, faulted .tripped .released, faulted .disabled .applied], s.pins.resetLow = false ∧
        (s.mv 1).trackSetComplete = true ∧ (s.moverAtUpdate 1).positionUnset = false ∧ (s.moverAtUpdate 1).state = .fault ∧
        (s.moverAtUpdate 1).fault.map FaultRec.stopComplete = some false ∧ (s.moverAtUpdate 1).brakeOrdered = false ∧
        ∀ st ∈ (s.moverAtUpdate 1).cfg.tracks, s.isOnline st = true) ∧
      (reports (faulted .running .released) = [some (.running, .released), some (.running, .released)] ∧
        reports (faulted .tripped .released) = [some (.tripped, .released), some (.tripped, .released)] ∧
        reports (faulted .disabled .applied) = [some (.disabled, .applied), some (.disabled, .applied)]) ∧
      (∀ chain ∈ [[], [segment 0 1 702 (.move 9000 150 20 25)]], (aligned chain).updates 0) ∧
      (∀ chain ∈ [[], [segment 0 1 702 (.move 9000 150 20 25)]], ((aligned chain).moverAtUpdate 0).state = .running ∧
        ((aligned chain).moverAtUpdate 0).chain = chain ∧ listsCheck (aligned chain) = true ∧ (∀ c, (aligned chain).rule c = none) ∧
        ((aligned chain).moverAtUpdate 0).exec.map (fun e => (e.seg.kind, e.part.startTime.isSome)) = some (.align, true) ∧
        ((aligned chain).moverAtUpdate 0).trim.map (fun t => (t.skew, t.errors)) = some (0, [0, 0]) ∧
        ((aligned chain).moverAtUpdate 0).skewWarn = false ∧ ((aligned chain).moverAtUpdate 0).targetUsed 9000 ≠ 0) := by
  refine ⟨by decide +kernel, by decide +kernel, fun chain h => ?_, by decide +kernel⟩
  simp only [List.mem_cons, List.not_mem_nil, or_false] at h
  rcases h with rfl | rfl <;> exact updates_of (by decide +kernel)

/-- A blended arrival in this update and one that is farther off; the tray before C0's zone, one mm from it and far from it, and in the
zone's way with the boundary behind it; a HOLDING leaf that still moves, that comes to rest, and that reaches its target. -/
theorem witness_ProfileAdvancesOrArrives_more :
    let next := segment 0 1 121 (.move 14000 90 20 25)
    let blends := due 0 (leafAt 11999000 90500 0 [next])
    let far := due 0 (leafAt 11000000 90500 0 [next])
    let slows (p : Int) (v : Nat) : State := withMover (due 0 (leafAt p v 0 [])) 0 fun x => { x with state := .holding }
    let tray (p : Int) (v : Nat) : State :=
      let s := withMover (trayHeld .released 0) 6 fun x =>
        { x with
          state := .running, p := p, v := v, dir := some .outward, holdSet := {}
          exec := x.exec.map fun e => { e with part := begunAt 1000000 } }
      due 6 (tracksAt s 6 p .running .released)
    (∀ s ∈ [blends, far, slows 5000000 90000, slows 5000000 300, slows 11999990 900], s.updates 0) ∧
      (∀ s ∈ [blends, far], (s.moverAtUpdate 0).state = .running ∧ (s.moverAtUpdate 0).chain = next :: [] ∧
        (∀ c, s.rule c = none) ∧ 0 < Dir.outward.sign * ((s.moverAtUpdate 0).targetUsed 14000 - 12000000)) ∧
      (∀ s ∈ [slows 5000000 90000, slows 5000000 300, slows 11999990 900], (s.moverAtUpdate 0).state = .holding ∧
        (s.moverAtUpdate 0).brakeOrdered = false ∧ (∀ c, s.rule c = none)) ∧
      (∀ s ∈ [blends, far, slows 5000000 90000, slows 5000000 300, slows 11999990 900],
        (s.moverAtUpdate 0).exec = some ⟨opening 0, begunAt 0⟩ ∧ (s.moverAtUpdate 0).dir = some .outward ∧
        s.measured 0 = some [(s.mv 0).p, (s.mv 0).p] ∧ ((s.mv 0).trimFrom (s.mv 0).p [(s.mv 0).p, (s.mv 0).p]).skew = 0 ∧
        ((s.mv 0).trimFrom (s.mv 0).p [(s.mv 0).p, (s.mv 0).p]).mean = (s.mv 0).p) ∧
      (∀ s ∈ [tray 1000000 60000, tray 2998990 600, tray 2999500 0], s.updates 6) ∧
      (∀ s ∈ [tray 1000000 60000, tray 2998990 600, tray 2999500 0], (s.moverAtUpdate 6).state = .running ∧
        (s.moverAtUpdate 6).chain = [] ∧ s.rule 0 = some (ruleZero .released []) ∧ (∀ k, k ≠ 0 → s.rule k = none) ∧
        (s.moverAtUpdate 6).execPath = some ⟨1000000, 100000000⟩ ∧ (ruleZero .released []).met ⟨1000000, 100000000⟩ = true ∧
        (s.moverAtUpdate 6).dir = some .outward ∧
        ((s.moverAtUpdate 6).exec.any fun e => decide (e.part.dir = some .outward) && e.part.startTime.isSome) = true ∧
        (s.measured 6).map meanOf = some (s.mv 6).p) := by
  refine ⟨fun s h => ?_, ?_, ?_, ?_, fun s h => ?_, ?_⟩
  case refine_1 =>
    simp only [List.mem_cons, List.not_mem_nil, or_false] at h
    rcases h with rfl | rfl | rfl | rfl | rfl <;> exact updates_of (by decide +kernel)
  case refine_5 =>
    simp only [List.mem_cons, List.not_mem_nil, or_false] at h
    rcases h with rfl | rfl | rfl <;> exact updates_of (by decide +kernel)
  all_goals decide +kernel

/-- R73, R117: the tray comes to rest one mm before the zone and is held there by C0. -/
theorem test_boundary_arrival :
    let s := withMover (trayHeld .released 0) 6 fun x =>
      { x with
        state := .running, p := 2998990, v := 600, dir := some .outward, holdSet := {}
        exec := x.exec.map fun e => { e with part := begunAt 1000000 } }
    updated 6 (tracksAt s 6 2998990 .running .released) (fun t =>
      (t.mv 6).p == 2999000 && (t.mv 6).v == 0 && (t.mv 6).state == .holding && (t.mv 6).brakeOrdered &&
        (t.mv 6).holdSet == { clearance := [0] } && t.notices.motion.queue == [⟨.clearanceWait 6 0 true (some 7), 1000⟩]) = true := by
  decide +kernel

/-- R117, R62: off the list of a freed rule, the HOLDING tray keeps its boundary until a request of its is granted. -/
theorem test_boundary_outlives_the_list :
    let s := trayHeld .free 12000000
    (s.setRule 0 (some ((ruleZero .free []).refuse 6))).stopPoints 6 .outward = [2999000] ∧
      (s.setRule 0 (some (((ruleZero .free []).refuse 6).grantTo 6 .held))).stopPoints 6 .outward = [] := by
  decide +kernel

/-! ## The millisecond, order images and the lists of rules -/

/-- `State.stationsSound` as a check. -/
def stationsCheck (s : State) : Bool :=
  allMovers.all fun m =>
    ((s.mv m).cfg.tracks.all fun st => (s.stn st).any fun x => x.type == .drive && x.owner == some m) &&
      (s.mv m).cfg.lockst.all fun st => (s.stn st).any fun x => x.type == .lock && x.owner == some m

theorem stations_of {s : State} (h : stationsCheck s = true) : s.stationsSound := by
  simp only [stationsCheck, List.all_eq_true, Bool.and_eq_true, allMovers] at h
  refine ⟨fun m st hst => ?_, fun m st hst => ?_⟩
  · obtain ⟨x, hx, hp⟩ := some_of ((h m (List.mem_finRange m)).1 st hst)
    simp only [Bool.and_eq_true, beq_iff_eq] at hp
    exact ⟨x, hx, hp.1, hp.2⟩
  · have h2 := (h m (List.mem_finRange m)).2
    rw [hst] at h2
    obtain ⟨x, hx, hp⟩ := some_of (by simpa using h2)
    simp only [Bool.and_eq_true, beq_iff_eq] at hp
    exact ⟨x, hx, hp.1, hp.2⟩

/-- The states of a configured mover. -/
def moverStates : List MoverState :=
  [.idle, .awaitPower, .unlocking, .releasing, .running, .holding, .held, .ending, .stopping, .stopped, .fault]

/-- The stations are their movers' own where the images are spoken of: in each state of the leaf, with movers that wait, for the trays
before C0, in FAULT, in RELEASING and on an ALIGN; each mover's tracks differ, and the leaf has a lock. -/
theorem witness_stationsSound :
    (∀ st ∈ moverStates, (leafIn st 400).stationsSound) ∧ (∀ st ∈ moverStates, (((leafIn st 400).mv 0).cfg.tracks.Nodup) ∧
        ((leafIn st 400).mv 0).cfg.lockst = some 6) ∧
      (soundLeaf.stationsSound ∧ awaiting.stationsSound ∧ tripped.stationsSound ∧ trayReleased.stationsSound ∧
        (trayHeld .released 0).stationsSound ∧ (aligned []).stationsSound ∧ (leafReleased .align {} []).stationsSound ∧
        (leafSkewed .running 40000 20000 false).stationsSound ∧ (due 0 (leafAt 11999000 90500 0 [])).stationsSound) ∧
      ∃ t, step { soundLeaf with pending := [.estop (line ["M=0"])] } = .next t := by
  refine ⟨fun st h => stations_of ?_, by decide +kernel, ⟨stations_of ?_, stations_of ?_, stations_of ?_, stations_of ?_, stations_of ?_,
    stations_of ?_, stations_of ?_, stations_of ?_, stations_of ?_⟩, goes_on (by decide +kernel)⟩
  · revert st; decide +kernel
  all_goals decide +kernel

/-- The leaf with every timer of the part running: at 1 those whose `b` says so, else at 2. -/
def timed (st : MoverState) (kind : SegKind) (one : Bool) : State :=
  let n := if one then 1 else 2
  let s := withMover (leafIn st 400) 0 fun x =>
    { x with
      exec := some ⟨segment 0 0 101 kind, { begunAt 0 with dwellLeft := n }⟩
      tlock := some n, tbrk := some n, tstop := some n, alignLeft := some n }
  { s with
    lineA := { s.lineA with period := some n, response := some n, phase := .exchange 0 }
    lineB :=
      { s.lineB with
        period := some n, response := some n
        phase := .serviceExchange { id := 0, station := 12, write := false, par := 0, val := none } }
    wx := { s.wx with releaseTimer := some n }
    link :=
      { s.link with sup := { on := true, timer := some n }, tx := some { text := [], carriesZ := false, left := 57600 * n } } }

/-- A tick with every timer at 1 and at 2, with a DWELL and an ALIGN in RUNNING and out of it. -/
theorem witness_EmptyQueueStepTakesOwnEventOrTick_timers :
    ∀ one ∈ [true, false], ∀ kind ∈ [SegKind.dwell 5, .align], ∀ st ∈ [MoverState.running, .holding],
      let s := timed st kind one
      s.pending = [] ∧ s.pins.resetLow = false ∧ s.posted = [] ∧ s.link.inputBuffer = [] ∧
        (runsOut (s.mv 0).tlock = one ∧ (s.mv 0).dwellTimer.isSome = (st == .running && kind != .align) ∧
          (s.mv 0).alignTimer.isSome = (st == .running && kind == .align)) := by
  decide +kernel

/-- R1, R25, R76: at 1 every timer that runs posts its expiry, and in HOLDING the dwell and the alignment timer stand; at 2 none does,
and each has 1 left. 57,600 bit/s send 57.6 bits in a millisecond (R161). -/
theorem test_tick :
    let posted (st : MoverState) (kind : SegKind) (one : Bool) : Option (List Instr) :=
      match step (timed st kind one) with
      | .next t => some t.posted
      | _ => none
    let lines : List Instr :=
      [.supervisionTimerExpiry, .responseTimeout .A, .linePeriodExpiry .A, .serviceTimeout .B, .linePeriodExpiry .B, .tlockExpiry 0,
       .tbrkExpiry 0, .tstopExpiry 0]
    posted .running (.dwell 5) true = some (lines ++ [.dwellExpiry 0, .releaseTimerExpiry, .transmitLineEnd]) ∧
      posted .running .align true = some (lines ++ [.alignTimerExpiry 0, .releaseTimerExpiry, .transmitLineEnd]) ∧
      posted .holding (.dwell 5) true = some (lines ++ [.releaseTimerExpiry, .transmitLineEnd]) ∧
      posted .running (.dwell 5) false = some [] ∧
      (match step (timed .running (.dwell 5) false) with
       | .next t =>
         (t.mv 0).tlock == some 1 && ((t.mv 0).exec.map fun e => e.part.dwellLeft) == some 1 && (t.mv 0).alignLeft == some 2 &&
           t.lineA.period == some 1 && t.wx.releaseTimer == some 1 && t.link.sup.timer == some 1 &&
           (t.link.tx.map TxLine.left) == some 57600
       | _ => false) = true := by
  decide +kernel

/-- The images of leaf M0's tracks, and of its lock. -/
def leafImages (s : State) : List (Option Image) := [(s.stn 0).map Station.image, (s.stn 1).map Station.image, (s.stn 6).map Station.image]

/-- R7, R19, R21: an emergency stop of a leaf in RUNNING leaves BRAKE RELEASE, one of a leaf in UNLOCKING leaves APPLY, both with VEL 0,
MODE QUICK and the lock kept; a chain end with LOCK=1 applies the brakes and orders ENGAGE. -/
theorem test_stop_and_end_images :
    let driven (st : MoverState) (b : BrakeOrder) : State :=
      ((leafIn st 400).modStn 0 fun x => { x with image := .drive 9000 b .normal }).modStn 1 fun x =>
        { x with image := .drive 9000 b .normal }
    let last := withMover (executing plant 0 (.dwell 5) []) 0 fun x =>
      { x with exec := x.exec.map fun e => { e with seg := { e.seg with lock := true } } }
    gives (.estop (line ["M=0"])) (driven .running .release) (fun t => leafImages t ==
        [some (.drive 0 .release .quick), some (.drive 0 .release .quick), some (.lock .keep)]) = true ∧
      gives (.estop (line ["M=0"])) (driven .unlocking .apply) (fun t => leafImages t ==
        [some (.drive 0 .apply .quick), some (.drive 0 .apply .quick), some (.lock .keep)]) = true ∧
      gives (.dwellExpiry 0) last (fun t => leafImages t ==
        [some (.drive 0 .apply .normal), some (.drive 0 .apply .normal), some (.lock .engage)]) = true := by
  decide +kernel

/-- A mover in STOPPING at an update at which its drives are not at rest, and at which they are and its brakes not yet applied. -/
theorem witness_ConfirmationsBringTheMoverOn_stopping :
    let s (d : DriveState) : State := leafReports .stopping d .released fun x => { x with tstop := some 9, brakeOrdered := false, exec := none }
    (∀ d ∈ [DriveState.stopping, .ready], (s d).updates 0) ∧
      (∀ d ∈ [DriveState.stopping, .ready], ((s d).moverAtUpdate 0).state = .stopping ∧ ((s d).moverAtUpdate 0).brakeOrdered = false ∧
        ∀ st ∈ ((s d).moverAtUpdate 0).cfg.tracks,
          (s d).isOnline st = true ∧ ((s d).driveReport st).map (fun r => r.2) = some (d, .released)) := by
  refine ⟨fun d h => ?_, by decide +kernel⟩
  simp only [List.mem_cons, List.not_mem_nil, or_false] at h
  rcases h with rfl | rfl <;> exact updates_of (by decide +kernel)

/-- R118 and the tray of 06: a mover that a rule refuses joins its list with CLEARANCE_WAIT M=6 C=0 NEED=CLAIM HOLDER=M7, at a RUNNING entry, at an update and
at a STAGE; one that waits there already sends none. -/
theorem test_clearance_wait :
    let wait : Notice := ⟨.clearanceWait 6 0 true (some 7), 1000⟩
    let waits (t : State) : Bool := t.notices.motion.queue == [wait] && t.rule 0 == some ((ruleZero .released [6]).refuse 6)
    wait.parts false =
        ["!MOTION", "CLEARANCE_WAIT", "M=6", "C=0", "NEED=CLAIM", "HOLDER=M7", "T=1000"].map String.toList ∧
      gives (.holdReasonRemoval 6 .operator) (trayHeld .released 0) waits = true ∧
      gives (.trackSetComplete 6) trayReleased waits = true ∧
      gives (.stage (line ["M=6", "TAG=601", "KIND=MOVE", "TO=100000"])) (trayRunning .released 0) waits = true ∧
      gives (.holdReasonRemoval 6 .operator) ((trayHeld .released 0).setRule 0 (some (ruleZero .released [6])))
        (fun t => t.notices.motion.queue == [] && t.rule 0 == some ((ruleZero .released [6]).refuse 6)) = true := by
  decide +kernel

/-- R36, R85, R37, R47: the peak skew of a segment that has not begun is raised in HOLDING, and its record carries 0. -/
theorem test_peak_skew_before_running :
    let s := withMover (leafSkewed .holding 30000 15000 false) 1 fun x => { x with exec := some ⟨opening 1, {}⟩, brakeOrdered := true }
    gives (.trackSetComplete 1) s (fun t =>
      ((t.mv 1).exec.map fun e => e.part.peakSkew) == some 30000 &&
        gives (.estop (line ["M=1"])) { t with link := s.link } fun t =>
          t.pool.log.map (fun r => (r.outcome, r.part.map ExecPart.peakSkew)) == [(.cut, some 0)]) = true := by
  decide +kernel

/-! ## Pending triggers, confirmations not yet reported, rules at an entry and at a switch -/

/-- A firing waits for leaf M0. -/
def armed (m : MoverNo) (s : State) : State := s.modTrig m fun t => { t with pendingFlag := true }

/-- A waiting firing where RESUME, STOP, ACKFAULT, the end of a STOP and that of ENDING bring a mover to IDLE; the pool has a slot. -/
theorem witness_pending_triggers :
    let stop := armed 0 (leafReports .holding .ready .applied fun x => { x with brakeOrdered := true, stopInProgress := true })
    let ending := armed 0 (leafReports .ending .ready .applied fun x => { x with exec := none })
    let resume := armed 0 (withMover (leafIn .stopped 0) 0 fun x => { x with exec := none })
    (∀ s ∈ [resume, armed 0 (leafIn .held 0), stop, ending], s.pins.resetLow = false ∧ (s.trig 0).pendingFlag = true ∧
        (s.trig 0).plan.isSome = true ∧ s.pool.free ≠ [] ∧ s.pins.stopOpen = false ∧ (s.mv 0).positionUnset = false) ∧
      (resume.listsSound ∧ (armed 0 (leafIn .held 0)).listsSound ∧ stop.listsSound ∧ ending.listsSound) ∧
      (stop.updates 0 ∧ ending.updates 0) ∧ ((armed 1 tripped).listsSound ∧ ((armed 1 tripped).trig 1).pendingFlag = true) := by
  refine ⟨by decide +kernel, ⟨lists_of ?_, lists_of ?_, lists_of ?_, lists_of ?_⟩, ⟨updates_of ?_, updates_of ?_⟩, lists_of ?_, ?_⟩ <;>
    decide +kernel

/-- R139, R138: the STOP that brings the held leaf to IDLE launches the plan that waits: TAG 900 from the top free slot. -/
theorem test_pending_trigger :
    gives (.stop (line ["M=0"])) (armed 0 (leafIn .held 0)) (fun t =>
      !(t.trig 0).pendingFlag && ((t.mv 0).exec.map fun e => (e.seg.tag, e.seg.origin)) == some (900, .plan) &&
        t.pool.log.map (fun r => r.outcome) == [.cut]) = true := by
  decide +kernel

/-- The lock not withdrawn, the brakes not released, not applied, and one of the two confirmations of ENDING alone. -/
theorem witness_ConfirmationsBringTheMoverOn_stays :
    let locked (s : State) (r : LockReport) : State := s.modStn 6 fun x => { x with report := some ⟨.lock r, 9⟩ }
    let unlocking := locked (leafReports .unlocking .ready .applied id) .moving
    let releasing := leafReports .releasing .ready .applied id
    let braking := leafReports .holding .ready .travelling fun x => { x with brakeOrdered := true }
    let ends (b : BrakeReport) (r : LockReport) : State := locked (leafReports .ending .ready b fun x => { x with exec := none, endLock := true }) r
    (∀ s ∈ [unlocking, releasing, braking, ends .applied .moving, ends .travelling .engaged], s.updates 0) ∧
      (unlocking.lockReport 0 ≠ some .withdrawn ∧ (releasing.driveReport 0).map (fun r => r.2.2) = some .applied) ∧
      ((braking.driveReport 0).map (fun r => r.2.2) = some .travelling ∧ (∀ c, braking.rule c = none) ∧
        (braking.moverAtUpdate 0).exec.isSome = true ∧ (braking.moverAtUpdate 0).trim.map (fun t => (t.skew, t.mean)) = some (0, 0)) ∧
      ((ends .applied .moving).lockReport 0 ≠ some .engaged ∧
        ((ends .travelling .engaged).driveReport 0).map (fun r => r.2.2) = some .travelling) := by
  refine ⟨fun s h => ?_, by decide +kernel, by decide +kernel, by decide +kernel⟩
  simp only [List.mem_cons, List.not_mem_nil, or_false] at h
  rcases h with rfl | rfl | rfl | rfl | rfl <;> exact updates_of (by decide +kernel)

/-- The tray in RELEASING at 1 m with a segment and a chain, C0 in a state with a list, the gate at p. -/
def trayEntering (kind : SegKind) (chain : List Segment) (rule : Rule) (gateAt : Int) : State :=
  let s := withMover (withMover plant 7 fun x => { x with p := gateAt }) 6 fun x =>
    { x with state := .releasing, exec := some ⟨segment 6 3 600 kind, {}⟩, chain := chain }
  due 6 (tracksAt (s.setRule 0 (some rule)) 6 1000000 .ready .released)

/-- C0 granted to the executing path; refused to the look-ahead, for which the tray waits already or not; a MOVE of no length with a chain
and a rule on which no mover waits. -/
theorem witness_ConfirmationsBringTheMoverOn_rules :
    let far : SegKind := .move 100000 60 10 10
    let near : SegKind := .move 2000 60 10 10
    let next := segment 6 4 601 far
    let granted := trayEntering far [] (ruleZero .free []) 12000000
    let ahead (w : List MoverNo) : State := trayEntering near [next] (ruleZero .released w) 0
    let still := trayEntering (.move 1000 60 10 10) [next] (ruleZero .released []) 0
    (∀ s ∈ [granted, ahead [], ahead [6], still], s.updates 6) ∧
      (∀ s ∈ [granted, ahead [], ahead [6], still], (s.moverAtUpdate 6).state = .releasing ∧ (∀ c, c ≠ 0 → s.rule c = none) ∧
        (s.moverAtUpdate 6).skewWarn = false ∧ ((s.moverAtUpdate 6).trim.map fun t => (t.skew, t.mean)) = some (0, 1000000)) ∧
      ((ruleZero .free []).needs 6 ⟨1000000, 100000000⟩ = true ∧ granted.wouldGrant (ruleZero .free []) 6 .held ∧
        (granted.moverAtUpdate 6).execPath = some ⟨1000000, 100000000⟩) ∧
      ((ruleZero .released [6]).needs 6 ⟨1000000, 2000000⟩ = false ∧ ((ahead [6]).moverAtUpdate 6).execPath = some ⟨1000000, 2000000⟩ ∧
        (ruleZero .released [6]).neededBy 6 (Mover.lookaheadPath { (ahead [6]).moverAtUpdate 6 with state := .running }) = true) ∧
      (still.listsSound ∧ (still.moverAtUpdate 6).targetUsed 1000 = 1000000 ∧
        (ruleZero .released []).needs 6 ⟨1000000, 1000000⟩ = false) := by
  refine ⟨fun s h => ?_, ?_, ⟨?_, ?_, ?_⟩, ?_, lists_of ?_, ?_⟩
  case refine_1 =>
    simp only [List.mem_cons, List.not_mem_nil, or_false] at h
    rcases h with rfl | rfl | rfl | rfl <;> exact updates_of (by decide +kernel)
  case refine_4 => unfold State.wouldGrant; decide +kernel
  all_goals decide +kernel

/-- R115, R116: the entry takes C0 for its path; the entry of a MOVE before the zone leaves the tray on C0's list for its look-ahead. -/
theorem test_entry_rules :
    gives (.trackSetComplete 6) (trayEntering (.move 100000 60 10 10) [] (ruleZero .free []) 12000000) (fun t =>
        (t.mv 6).state == .running && t.rule 0 == some (ruleZero .held [])) = true ∧
      gives (.trackSetComplete 6)
        (trayEntering (.move 2000 60 10 10) [segment 6 4 601 (.move 100000 60 10 10)] (ruleZero .released []) 0) (fun t =>
        (t.mv 6).state == .running && t.rule 0 == some ((ruleZero .released [6]).refuse 6)) = true := by
  decide +kernel

/-- The gate's dwell at p with a chain and C0 in a state with no list. -/
def gateDwelling (p : Int) (st : RuleState) (chain : List Segment) : State :=
  (withMover (executing plant 7 (.dwell 5000) chain) 7 fun x => { x with p := p }).setRule 0 (some (ruleZero st []))

/-- A switch with C0 on which no mover waits: to a MOVE out of the region, to a MOVE of no length, to an ALIGN that C0 refuses; and an
arrival with a DWELL behind it. -/
theorem witness_switches_with_rules :
    (∀ s ∈ [gateDwelling 12000000 .free [segment 7 2 702 (.move 9000 100 10 10)],
          gateDwelling 12000000 .free [segment 7 2 702 (.move 12000 100 10 10), segment 7 3 703 (.dwell 5)],
          gateDwelling 9000000 .held [segment 7 2 702 .align]],
        s.pins.resetLow = false ∧ (s.mv 7).state = .running ∧ listsCheck s = true ∧
          (allRules.all fun c => (s.rule c).all fun r => r.waiting == []) = true ∧
          ((s.mv 7).exec.any fun e => e.seg.kind == .dwell 5000 && e.part.startTime.isSome) = true) ∧
      (let s := due 0 (leafAt 11999997 1140 740 [segment 0 1 102 (.dwell 5)]);
        listsCheck s = true ∧ (s.mv 0).chain.head?.map Segment.kind = some (.dwell 5)) := by
  decide +kernel

/-- R61, R116, R118: the gate's switch takes C0 with a MOVE out of the region; a MOVE of no length is ARRIVED at once and the chain goes
on; an ALIGN outside the region that C0 refuses holds the gate. -/
theorem test_switch_rules :
    gives (.dwellExpiry 7) (gateDwelling 12000000 .free [segment 7 2 702 (.move 9000 100 10 10)])
        (fun t => (t.rule 0).map Rule.state == some .released && (t.mv 7).state == .running) = true ∧
      gives (.dwellExpiry 7) (gateDwelling 12000000 .free [segment 7 2 702 (.move 12000 100 10 10), segment 7 3 703 (.dwell 5)])
        (fun t => t.pool.log.map (fun r => (r.seg.tag, r.outcome)) == [(701, .dwelled), (702, .arrived)] &&
          ((t.mv 7).exec.map fun e => e.seg.tag) == some 703) = true ∧
      gives (.dwellExpiry 7) (gateDwelling 9000000 .held [segment 7 2 702 .align])
        (fun t => (t.mv 7).state == .holding && (t.mv 7).holdSet == { clearance := [0] } &&
          (t.rule 0).map Rule.waiting == some [7]) = true := by
  decide +kernel

/-- The tracks of leaf M1 measured, with a report from each; R79, R80, R86: 7,022,400 and 6,978,500 µm less the offsets. -/
theorem witness_ConfirmationsBringTheMoverOn_trim : tripped.measures 1 [7022000, 6980000] := by
  refine ⟨by decide +kernel, fun i st h => ?_⟩
  have e : (tripped.mv 1).cfg.tracks = [2, 3] := by decide +kernel
  rw [e] at h
  match i, h with
  | 0, h => obtain rfl : 2 = st := by simpa using h
            exact ⟨_, _, 7022400, .ready, .applied, rfl, rfl, rfl, by decide +kernel⟩
  | 1, h => obtain rfl : 3 = st := by simpa using h
            exact ⟨_, _, 6978500, .ready, .applied, rfl, rfl, rfl, by decide +kernel⟩

/-- A live source with a report, where the wind figure is present. -/
theorem witness_WeatherEventsMoveTheHold_figure : plant.live 4 ∧ plant.windFigure = some ⟨92, 140⟩ :=
  ⟨⟨by decide +kernel, _, rfl, by decide +kernel, by decide +kernel⟩, by decide +kernel⟩

/-! ## New settings at a late round's end -/

/-- The line's round is overdue, and MISS=1 waits for the next. -/
def lateMiss (l : LineId) (s : State) : State :=
  s.modLine l fun c => { c with record := some ⟨20, 1, 1⟩, overdue := true, period := none }

/-- The last exchange of line A, and a service exchange of line B, ending late with a new MISS waiting and a STALE station to fall; the
gate's station defined again there. -/
theorem witness_new_settings_at_a_late_end :
    let last := (lateMiss .A (asking 7)).modStn 1 fun x => { x with health := .stale, misses := 1 }
    let service := (lateMiss .B reading).modStn 12 fun x => { x with health := .stale, misses := 1 }
    let again := line ["ST=12", "LINE=B", "ADDR=31", "TYPE=DRIVE"]
    let served := lateMiss .B (plant.modLine .B fun c =>
      { c with phase := .serviceExchange { id := 0, station := 12, write := false, par := 12, val := none }, response := some 5 })
    (last.pins.resetLow = false ∧ (last.line .A).phase = .exchange 7 ∧ (last.line .A).overdue = true ∧
        (last.line .A).current.miss ≠ 1 ∧ (last.stn 1).map (fun x => x.falls .A 1) = some true) ∧
      (service.pins.resetLow = false ∧ (service.line .B).overdue = true ∧ (service.line .B).current.miss ≠ 1 ∧
        (service.stn 12).map (fun x => x.falls .B 1) = some true ∧ (service.stn 9).isSome = true) ∧
      (served.executes "DEFSTN" again (fieldsOf again) ∧ (served.line .B).overdue = true ∧ (served.line .B).current.miss ≠ 1) := by
  refine ⟨?_, ?_, runs ?_, ?_, ?_⟩ <;> decide +kernel

/-- R156, R144: the late end raises LINE OVERRUN, then the STATION_LOST of the new MISS; the next exchange waits for the new TMO. -/
theorem test_late_end_new_miss :
    gives (.responseTimeout .A) ((lateMiss .A (asking 7)).modStn 1 fun x => { x with health := .stale, misses := 1 }) (fun t =>
      t.notices.line.queue.map Notice.kind == [.overrun .A 41, .stationLost 1 .A 2 (some 0), .stationLost 7 .A 8 (some 1)] &&
        (t.line .A).response == some 1 && (t.line .A).current == ⟨20, 1, 1⟩) = true := by
  decide +kernel

/-! ## Rules in the profile, refusals at an entry, completions with rules about, and the checks of an update (R24, R81, R113 to R118) -/

/-- A state with its slots in the pool: those that no mover carries are free. -/
def pooled (s : State) : State :=
  { s with
    pool := { s.pool with free := (List.finRange 256).filter fun n => !(allMovers.flatMap fun m => (s.mv m).slots).contains n } }

/-- `State.wakesNone` as a check. -/
def wakesCheck (s : State) (m : MoverNo) : Bool :=
  decide ((s.mv m).holdSet = {}) && allRules.all fun c => (s.rule c).all fun u =>
    (u.g != m && u.k != m) || u.waiting.all fun w => w == m && !u.has m

theorem wakes_of {s : State} {m : MoverNo} (h : wakesCheck s m = true) : s.wakesNone m := by
  simp only [wakesCheck, Bool.and_eq_true, decide_eq_true_eq] at h
  refine ⟨h.1, fun c u hu hm w hw => ?_⟩
  have := rules_all (p := fun _ u => (u.g != m && u.k != m) || u.waiting.all fun w => w == m && !u.has m) h.2 c u hu
  rcases hm with hm | hm <;> simp [hm] at this <;> exact this w hw

theorem limit_of {s : State} {m : MoverNo} {dir : Dir} {target : Int} {l : Option Int}
    (h : nearestBoundary dir (s.mv m).p target (s.stopPoints m dir) = l) : s.limitIs m dir target l :=
  h ▸ s.limitIs_nearestBoundary m dir target

/-- The part as stages 1 and 5 of mover m's update leave it. -/
def watchedAt (s : State) (m : MoverNo) : State :=
  let x := s.moverAtUpdate m
  let skew := (x.trim.map Trim.skew).getD 0
  { s.atUpdate m with
    movers := s.movers.set m.val
      { x with
        skewWarn := x.warnAfter skew
        exec := x.exec.map fun e => { e with part := { e.part with peakSkew := max e.part.peakSkew skew } } }
    notices := s.warned m x skew }

/-- The gate on a MOVE at p with v, with a rule as C0, its update due. -/
def gateMoving (st : MoverState) (dest p : Int) (v : Nat) (dir : Dir) (rule : Rule) : State :=
  let s := withMover (executing plant 7 (.move dest 60 10 10) []) 7 fun x =>
    { x with
      state := st, p := p, v := v, dir := some dir
      exec := x.exec.map fun e => { e with part := { startTime := some 900, pathStart := some p, dir := some dir } } }
  due 7 (tracksAt ((s.setGrant 7 120).setRule 0 (some rule)) 7 p .running .released)

/-- The tray on a MOVE outward at p with v, with a chain, a hold set and a rule as C0, the gate at its place, its update due. -/
def trayMoving (st : MoverState) (dest p : Int) (v : Nat) (chain : List Segment) (reasons : HoldSet) (rule : Rule) (gateAt : Int) :
    State :=
  let s := withMover (withMover (executing plant 6 (.move dest 60 10 10) chain) 7 fun x => { x with p := gateAt }) 6 fun x =>
    { x with
      state := st, p := p, v := v, dir := some .outward, holdSet := reasons
      exec := x.exec.map fun e => { e with part := begunAt 1000000 } }
  due 6 (tracksAt ((s.setGrant 6 300).setRule 0 (some rule)) 6 p .running .released)

/-- C0 with a region that ends below the gate's travel. -/
def upper : Rule := { ruleZero .held [] with rlo := 0, rhi := 9000 }

/-- A MOVE of the tray's chain that needs C0. -/
def intoBowl : Segment := segment 6 4 601 (.move 100000 60 10 10)

/-- After stage 6: K stopped at RLO on its way in and at RHI on its way out; G granted C0, with no boundary; G whose look-ahead C0 refuses,
with none before its target; G off the list that it needs no more; in HOLDING, the boundary in front of a G that C0 has refused. -/
theorem witness_ProfileAdvancesOrArrives_rules :
    let inward := gateMoving .running 9000 11950010 600 .inward (ruleZero .held [])
    let outward := gateMoving .running 12000 8999990 600 .outward upper
    let granted := trayMoving .running 100000 2000000 600 [] {} (ruleZero .free []) 12000000
    let ahead := trayMoving .running 2000 1500000 600 [intoBowl] {} (ruleZero .released []) 0
    let listed := trayMoving .holding 2000 1500000 600 [] { clearance := [0] } (ruleZero .released [6]) 0
    let slowing := trayMoving .holding 100000 2998990 600 [] { operator := true } ((ruleZero .released []).refuse 6) 0
    (inward.updates 7 ∧ outward.updates 7 ∧ granted.updates 6 ∧ ahead.updates 6 ∧ listed.updates 6 ∧ slowing.updates 6) ∧
      (State.limitIs ((watchedAt inward 7).stageSix 7) 7 .inward 9000000 (some 11950000) ∧
        State.limitIs ((watchedAt outward 7).stageSix 7) 7 .outward 12000000 (some 9000000) ∧
        State.limitIs ((watchedAt granted 6).stageSix 6) 6 .outward 100000000 none ∧
        State.limitIs ((watchedAt ahead 6).stageSix 6) 6 .outward 2000000 none ∧
        State.limitIs (watchedAt slowing 6) 6 .outward 100000000 (some 2999000)) ∧
      (((watchedAt granted 6).stageSix 6).rule 0 = some (ruleZero .held []) ∧
        ((watchedAt ahead 6).stageSix 6).rule 0 = some ((ruleZero .released [6]).refuse 6) ∧ (watchedAt listed 6).stale 6 = [0] ∧
        ((watchedAt listed 6).leavesStale 6).rule 0 = some (ruleZero .released []) ∧ (watchedAt slowing 6).stale 6 = []) ∧
      (∀ s ∈ [(inward, (7 : MoverNo)), (outward, 7), (granted, 6), (ahead, 6), (listed, 6), (slowing, 6)],
        s.1.measured s.2 = some ((s.1.mv s.2).cfg.tracks.map fun _ => (s.1.mv s.2).p) ∧
          (s.1.moverAtUpdate s.2).trim.map (fun t => (t.skew, t.mean)) = some (0, (s.1.mv s.2).p)) := by
  refine ⟨⟨updates_of ?_, updates_of ?_, updates_of ?_, updates_of ?_, updates_of ?_, updates_of ?_⟩,
    ⟨limit_of ?_, limit_of ?_, limit_of ?_, limit_of ?_, limit_of ?_⟩, ?_, ?_⟩ <;> decide +kernel

/-- R117, R73: K comes to rest on the edge of its region, at RLO inward and at RHI outward, held by C0. R116, R118: G is granted C0 in
stage 6 and goes on; in HOLDING, off the list of C0, which it needs no more, it runs on in the same update. -/
theorem test_rules_in_the_profile :
    let rests (m : MoverNo) (p : Int) (t : State) : Bool :=
      (t.mv m).p == p && (t.mv m).v == 0 && (t.mv m).brakeOrdered && (t.mv m).holdSet == { clearance := [0] }
    gives (.trackSetComplete 7) (gateMoving .running 9000 11950010 600 .inward (ruleZero .held [])) (rests 7 11950000) = true ∧
      gives (.trackSetComplete 7) (gateMoving .running 12000 8999990 600 .outward upper) (rests 7 9000000) = true ∧
      gives (.trackSetComplete 6) (trayMoving .running 100000 2000000 600 [] {} (ruleZero .free []) 12000000)
        (fun t => t.rule 0 == some (ruleZero .held []) && (t.mv 6).p == 2000040) = true ∧
      gives (.trackSetComplete 6) (trayMoving .holding 2000 1500000 600 [] { clearance := [0] } (ruleZero .released [6]) 0)
        (fun t => t.rule 0 == some (ruleZero .released []) && (t.mv 6).state == .running && (t.mv 6).p == 1500040) = true := by
  decide +kernel

/-- A DWELL whose gate waits for C0, a MOVE of no length, an ALIGN at its first entry and resumed, an ALIGN in RUNNING, and arrivals with
the mover on a list: nothing else waits, and the slots are sound. -/
theorem witness_completions :
    let next := segment 0 1 702 (.move 9000 150 20 25)
    let dwell := pooled ((gateDwelling 9000000 .free [segment 7 2 702 (.move 8000 100 10 10)]).setRule 0 (some (ruleZero .held [7])))
    let still := pooled (trayEntering (.move 1000 60 10 10) [intoBowl] (ruleZero .released [6]) 0)
    let first := pooled (leafReleased .align {} [next])
    let resumed := pooled (leafReleased .align { startTime := some 900, pathStart := some 0 } [next])
    let running := pooled (aligned [next])
    let arriving := pooled (trayMoving .running 2000 1999999 600 [intoBowl] {} (ruleZero .released [6]) 0)
    let ready (s : State) (m : MoverNo) : Prop := s.listsSound ∧ s.poolSound ∧ s.wakesNone m
    (ready dwell 7 ∧ ready still 6 ∧ ready first 0 ∧ ready resumed 0 ∧ ready running 0 ∧ ready ((watchedAt arriving 6).stageSix 6) 6) ∧
      (still.updates 6 ∧ first.updates 0 ∧ resumed.updates 0 ∧ running.updates 0 ∧ arriving.updates 6) ∧
      (State.limitIs ((watchedAt arriving 6).stageSix 6) 6 .outward 2000000 none ∧
        ∀ s ∈ [first, resumed, running], (s.moverAtUpdate 0).trim.map (fun t => (t.skew, t.errors)) = some (0, [0, 0])) := by
  unfold State.poolSound
  refine ⟨⟨⟨lists_of ?_, ?_, wakes_of ?_⟩, ⟨lists_of ?_, ?_, wakes_of ?_⟩, ⟨lists_of ?_, ?_, wakes_of ?_⟩,
    ⟨lists_of ?_, ?_, wakes_of ?_⟩, ⟨lists_of ?_, ?_, wakes_of ?_⟩, ⟨lists_of ?_, ?_, wakes_of ?_⟩⟩,
    ⟨updates_of ?_, updates_of ?_, updates_of ?_, updates_of ?_, updates_of ?_⟩, limit_of ?_, ?_⟩ <;> decide +kernel

/-- R90: an ALIGN, new or resumed, whose tracks agree at its entry is ALIGNED there. -/
theorem test_align_entry :
    ∀ part ∈ [({} : ExecPart), { startTime := some 900, pathStart := some 0 }],
      gives (.trackSetComplete 0) (leafReleased .align part [])
        (fun t => (t.mv 0).state == .ending && t.pool.log.map (fun r => r.outcome) == [.aligned]) = true := by
  decide +kernel

/-- The gate in a state on a MOVE out of the region, which the tray's C0 refuses. -/
def gateRefused (st : MoverState) (reasons : HoldSet) : State :=
  let s := withMover (gateMoving st 9000 12000000 0 .inward (ruleZero .held [])) 7 fun x => { x with holdSet := reasons }
  due 7 (tracksAt s 7 12000000 .ready .released)

/-- The tray in a state on a MOVE into the bowl, with C0 OPEN and the gate outside its region. -/
def trayRefused (st : MoverState) (reasons : HoldSet) : State := trayMoving st 100000 1000000 0 [] reasons (ruleZero .free []) 0

/-- A release that a HELD rule refuses, and a claim that an OPEN one refuses with K outside its region: at a removal in HOLDING, and at the
entry that follows RELEASING. -/
theorem witness_refused_entries :
    (∀ s ∈ [gateRefused .holding { operator := true }, gateRefused .releasing {}],
        s.turnsAway (ruleZero .held []) 7 ⟨9000000, 12000000⟩ ∧ s.updates 7) ∧
      (∀ s ∈ [trayRefused .holding { operator := true }, trayRefused .releasing {}],
        s.turnsAway (ruleZero .free []) 6 ⟨1000000, 100000000⟩ ∧ s.updates 6) ∧
      (∀ s ∈ [gateRefused .holding { operator := true }, gateRefused .releasing {}], s.rule 0 = some (ruleZero .held []) ∧
        (s.mv 7).execPath = some ⟨9000000, 12000000⟩ ∧ s.pins.resetLow = false ∧
        (s.moverAtUpdate 7).trim.map (fun t => (t.skew, t.mean)) = some (0, 12000000)) ∧
      (∀ s ∈ [trayRefused .holding { operator := true }, trayRefused .releasing {}], s.rule 0 = some (ruleZero .free []) ∧
        (s.mv 6).execPath = some ⟨1000000, 100000000⟩ ∧ s.pins.resetLow = false ∧
        (s.moverAtUpdate 6).trim.map (fun t => (t.skew, t.mean)) = some (0, 1000000)) := by
  refine ⟨fun s h => ?_, fun s h => ?_, by decide +kernel, by decide +kernel⟩ <;>
    (simp only [List.mem_cons, List.not_mem_nil, or_false] at h
     rcases h with rfl | rfl <;> exact ⟨(State.turnsAway_iff ..).2 (by decide +kernel), updates_of (by decide +kernel)⟩)

/-- R114, R113, R115: the gate that C0 refuses stays held with NEED=RELEASE, HOLDER=M6; the tray that it refuses with no holder, with
NEED=CLAIM, HOLDER=NONE. -/
theorem test_refused_entries :
    let waits (m : MoverNo) (n : Notice) (t : State) : Bool :=
      (t.mv m).state == .holding && (t.mv m).holdSet == { clearance := [0] } && t.notices.motion.queue == [n] &&
        (t.rule 0).map Rule.waiting == some [m]
    let release : Notice := ⟨.clearanceWait 7 0 false (some 6), 1000⟩
    let claim : Notice := ⟨.clearanceWait 6 0 true none, 1000⟩
    gives (.holdReasonRemoval 7 .operator) (gateRefused .holding { operator := true }) (waits 7 release) = true ∧
      gives (.trackSetComplete 7) (gateRefused .releasing {}) (waits 7 release) = true ∧
      gives (.holdReasonRemoval 6 .operator) (trayRefused .holding { operator := true }) (waits 6 claim) = true ∧
      gives (.trackSetComplete 6) (trayRefused .releasing {}) (waits 6 claim) = true := by
  decide +kernel

/-- The tray braked before C0, on whose list it stands. -/
def trayBraked (b : BrakeReport) : State :=
  let s := withMover (trayMoving .holding 100000 2999000 0 [] { clearance := [0] } ((ruleZero .released [6]).refuse 6) 0) 6 fun x =>
    { x with brakeOrdered := true }
  due 6 (tracksAt s 6 2999000 .ready b)

/-- A position that is unset: in STOPPED and in FAULT with its stop complete, with the tracks reporting, and with one that has not; the tray
then stands in C0's zone. -/
def trayUnset (st : MoverState) (mute : Bool) : State :=
  let s := withMover (plant.setRule 0 (some (ruleZero .free []))) 6 fun x =>
    { x with
      state := st, positionUnset := true
      fault := if st = .fault then (tripped.mv 1).fault else none }
  let s := due 6 (tracksAt s 6 5000000 .ready .applied)
  if mute then s.modStn 8 fun x => { x with report := none } else s

/-- HELD of a mover that waits on a rule, and its HOLDING with the brakes not yet applied; the position initialisation in STOPPED and in
FAULT; stage 2 with a track that has not reported; a DRIVE fault found in FAULT; a skew trip after the brake order. -/
theorem witness_updates_with_rules :
    (∀ b ∈ [BrakeReport.applied, .travelling], (trayBraked b).updates 6 ∧ (trayBraked b).listsSound) ∧
      (∀ b ∈ [BrakeReport.applied, .travelling], ((trayBraked b).rule 0).map (fun r => (r.waiting, r.has 6)) = some ([6], false) ∧
        ((trayBraked b).moverAtUpdate 6).trim.map (fun t => (t.skew, t.mean)) = some (0, 2999000)) ∧
      (∀ st ∈ [MoverState.stopped, .fault], let s := trayUnset st false
        s.measured 6 = some [5000000, 5000000, 5000000, 5000000] ∧ (s.moverAtUpdate 6).positionUnset = true ∧
          (s.moverAtUpdate 6).exec = none ∧ s.stateAtRest 6 5000000 (ruleZero .free []) = .held ∧ s.rule 0 = some (ruleZero .free []) ∧
          (s.mv 6).trackSetComplete = true ∧
          ((s.atUpdate 6).setMv 6
            { s.moverAtUpdate 6 with p := 5000000, residue := 0, positionUnset := false }).failingKinds 6 = []) ∧
      (trayUnset .idle true).placedAtUpdate ((trayUnset .idle true).atUpdate 6) 6 ∧
      ((faulted .tripped .released).placedAtUpdate ((faulted .tripped .released).atUpdate 1) 1 ∧
        ((faulted .tripped .released).atUpdate 1).failingKinds 1 = [.drive]) ∧
      (let s := withMover (leafSkewed .holding 40000 20000 false) 1 fun x => { x with brakeOrdered := true };
        s.updates 1 ∧ s.listsSound ∧ (s.moverAtUpdate 1).trim.map Trim.skew = some 40000 ∧
          s.driveReport 2 = some (5040400, .running, .released)) := by
  refine ⟨fun b h => ?_, by decide +kernel, by decide +kernel, .inl ⟨.inr ?_, rfl⟩, ⟨.inl ⟨.inl ?_, rfl⟩, ?_⟩,
    ⟨updates_of ?_, lists_of ?_, ?_⟩⟩
  case refine_1 =>
    simp only [List.mem_cons, List.not_mem_nil, or_false] at h
    rcases h with rfl | rfl <;> exact ⟨updates_of (by decide +kernel), lists_of (by decide +kernel)⟩
  all_goals decide +kernel

/-- R15: the tray that waits on C0 comes to HELD and stays on the list. R8, R122: an update sets the tray's p in STOPPED and in FAULT, and
C0 is HELD. R26: a DRIVE fault found in FAULT joins the secondary set. R82: a skew at the trip level is a fault after the brake order. -/
theorem test_updates_with_rules :
    gives (.trackSetComplete 6) (trayBraked .applied)
        (fun t => (t.mv 6).state == .held && (t.rule 0).map Rule.waiting == some [6] && t.grant 6 == 0) = true ∧
      (∀ st ∈ [MoverState.stopped, .fault], gives (.trackSetComplete 6) (trayUnset st false)
        (fun t => (t.mv 6).p == 5000000 && (t.mv 6).state == st && t.rule 0 == some (ruleZero .held [])) = true) ∧
      gives (.trackSetComplete 1) (faulted .tripped .released)
        (fun t => (t.mv 1).fault.map FaultRec.secondary == some [.drive]) = true ∧
      gives (.trackSetComplete 1) (withMover (leafSkewed .holding 40000 20000 false) 1 fun x => { x with brakeOrdered := true })
        (fun t => (t.mv 1).fault.map FaultRec.primary == some .skew) = true := by
  decide +kernel

end Sys2Proof.Tests
end

section
/-! PROOF. The step on an empty queue (O2): what each group of timers does within a millisecond, that the events it posts all differ, and
what the part takes by itself. -/

namespace Sys2Proof.Machine

/-! ## Posting -/

/-- An event joins a list of posted ones unless it stands there already. -/
def joinNew (q : List Instr) (i : Instr) : List Instr := if q.contains i then q else q ++ [i]

/-- Events posted one after the other, each unless it already stands posted. -/
def State.posting (s : State) (is : List Instr) : State := { s with posted := is.foldl joinNew s.posted }

/-- What a timer posts within the millisecond: its expiry, if it runs out. -/
def dueExpiry (timer : Option Nat) (i : Instr) : List Instr := if runsOut timer then [i] else []

theorem State.postOnce_eq_posting (s : State) (i : Instr) : s.postOnce i = s.posting [i] := by
  unfold State.postOnce State.posting joinNew State.post
  by_cases h : s.posted.contains i = true <;> simp only [h, List.foldl_cons, List.foldl_nil] <;> rfl

theorem State.postIf_eq_posting (s : State) (e : Bool) (i : Instr) : s.postIf e i = s.posting (if e then [i] else []) := by
  cases e
  · rfl
  · exact s.postOnce_eq_posting i

theorem State.posting_posting (s : State) (k l : List Instr) : (s.posting k).posting l = s.posting (k ++ l) := by
  simp only [State.posting, List.foldl_append]

@[simp] theorem State.posting_mv (s : State) (is : List Instr) (m : MoverNo) : (s.posting is).mv m = s.mv m := rfl

theorem State.posting_setMv (s : State) (is : List Instr) (m : MoverNo) (x : Mover) :
    (s.posting is).setMv m x = (s.setMv m x).posting is := rfl

/-- Events that differ all join the list, in their order. -/
theorem foldl_joinNew_of_nodup {is q : List Instr} (h : (q ++ is).Nodup) : is.foldl joinNew q = q ++ is := by
  induction is generalizing q with
  | nil => simp
  | cons i is ih =>
    have fresh : i ∉ q := fun hi => (List.nodup_append.1 h).2.2 i hi i (by simp) rfl
    have step : joinNew q i = q ++ [i] := by simp [joinNew, fresh]
    have rest : (q ++ [i] ++ is).Nodup := by simpa using h
    rw [List.foldl_cons, step, ih rest, List.append_assoc, List.singleton_append]

theorem dueExpiry_sublist (timer : Option Nat) (i : Instr) : (dueExpiry timer i).Sublist [i] := by
  unfold dueExpiry
  split
  · exact .refl _
  · exact List.nil_sublist _

/-! ## The timers of a mover -/

/-- A mover's timers of R25 after a millisecond. -/
def Mover.timersLater (x : Mover) : Mover := { x with tlock := afterMs x.tlock, tbrk := afterMs x.tbrk, tstop := afterMs x.tstop }

/-- A mover's dwell time after a millisecond. -/
def Mover.dwellLater (x : Mover) : Mover :=
  if x.dwellTimer.isSome then x.modPart fun q => { q with dwellLeft := q.dwellLeft - 1 } else x

/-- A mover's alignment timer after a millisecond. -/
def Mover.alignLater (x : Mover) : Mover := if x.alignTimer.isSome then { x with alignLeft := afterMs x.alignLeft } else x

/-- What a mover's timers post within the millisecond. -/
def Mover.expiries (x : Mover) (m : MoverNo) : List Instr :=
  dueExpiry x.tlock (.tlockExpiry m) ++ dueExpiry x.tbrk (.tbrkExpiry m) ++ dueExpiry x.tstop (.tstopExpiry m) ++
    dueExpiry x.dwellTimer (.dwellExpiry m) ++ dueExpiry x.alignTimer (.alignTimerExpiry m)

/-- The dwell timer runs in RUNNING with a DWELL that has begun. -/
theorem Mover.dwellTimer_eq (x : Mover) :
    x.dwellTimer = if x.state == .running && x.dwelling then x.exec.map fun e => e.part.dwellLeft else none := by
  unfold Mover.dwellTimer Mover.dwelling Mover.hasBegun
  cases hs : x.state
  case running =>
    cases x.exec with
    | none => rfl
    | some e => cases hk : e.seg.kind <;> simp [hk]
  all_goals rfl

/-- The alignment timer runs in RUNNING with an ALIGN. -/
theorem Mover.alignTimer_eq (x : Mover) : x.alignTimer = if x.state == .running && x.aligning then x.alignLeft else none := by
  unfold Mover.alignTimer Mover.aligning
  cases x.exec <;> simp

theorem Mover.alignTimer_modPart (x : Mover) (f : ExecPart → ExecPart) : (x.modPart f).alignTimer = x.alignTimer := by
  unfold Mover.alignTimer Mover.modPart
  cases x.exec <;> rfl

theorem Mover.dwellLater_alignTimer (x : Mover) : x.dwellLater.alignTimer = x.alignTimer := by
  unfold Mover.dwellLater
  split
  · exact x.alignTimer_modPart _
  · rfl

/-- The dwell timer is the executing segment's. -/
theorem Mover.exec_of_dwellTimer {x : Mover} {n : Nat} (h : x.dwellTimer = some n) :
    ∃ e, x.exec = some e ∧ e.part.dwellLeft = n := by
  rw [Mover.dwellTimer_eq] at h
  split at h
  · exact Option.map_eq_some_iff.1 h
  · cases h

/-- The three groups of timers together are the mover's millisecond. -/
theorem Mover.msLater_eq (x : Mover) : x.msLater = x.timersLater.dwellLater.alignLater := by
  have dwell : x.timersLater.dwellTimer = x.dwellTimer := rfl
  have align : x.timersLater.dwellLater.alignTimer = x.alignTimer := x.timersLater.dwellLater_alignTimer
  unfold Mover.alignLater
  rw [align]
  unfold Mover.dwellLater Mover.msLater
  rw [dwell]
  cases hd : x.dwellTimer with
  | none => cases x.alignTimer <;> rfl
  | some n =>
    obtain ⟨e, he, rfl⟩ := Mover.exec_of_dwellTimer hd
    cases x.alignTimer <;> simp [Mover.modPart, Mover.timersLater, he]

/-! ## A mover's tick, and the movers' -/

theorem State.setMv_self (s : State) (m : MoverNo) : s.setMv m (s.mv m) = s := by simp [State.setMv, State.mv]

theorem State.setMv_setMv (s : State) (m : MoverNo) (x y : Mover) : (s.setMv m x).setMv m y = s.setMv m y := by simp [State.setMv]

theorem State.tickMoverTimers_eq (s : State) (m : MoverNo) :
    s.tickMoverTimers m = (s.setMv m (s.mv m).timersLater).posting
      (dueExpiry (s.mv m).tlock (.tlockExpiry m) ++ dueExpiry (s.mv m).tbrk (.tbrkExpiry m) ++
        dueExpiry (s.mv m).tstop (.tstopExpiry m)) := by
  simp only [State.tickMoverTimers, State.postIf_eq_posting, State.posting_posting]
  rfl

theorem State.tickDwell_eq (s : State) (m : MoverNo) :
    s.tickDwell m = (s.setMv m (s.mv m).dwellLater).posting (dueExpiry (s.mv m).dwellTimer (.dwellExpiry m)) := by
  unfold State.tickDwell Mover.dwellLater
  rw [Mover.dwellTimer_eq]
  dsimp only
  split
  · next h =>
    cases he : (s.mv m).exec with
    | none => simp [Mover.dwelling, he] at h
    | some e => exact State.postIf_eq_posting _ _ _
  · exact (s.setMv_self m).symm

theorem State.tickAlign_eq (s : State) (m : MoverNo) :
    s.tickAlign m = (s.setMv m (s.mv m).alignLater).posting (dueExpiry (s.mv m).alignTimer (.alignTimerExpiry m)) := by
  unfold State.tickAlign Mover.alignLater
  rw [Mover.alignTimer_eq]
  dsimp only
  cases hn : (s.mv m).alignLeft with
  | none => simp [dueExpiry, runsOut, State.posting, State.setMv_self]
  | some n =>
    dsimp only
    split
    · exact State.postIf_eq_posting _ _ _
    · exact (s.setMv_self m).symm

theorem State.tickMover_eq (s : State) (m : MoverNo) :
    s.tickMover m = (s.setMv m (s.mv m).msLater).posting ((s.mv m).expiries m) := by
  unfold State.tickMover
  rw [State.tickMoverTimers_eq, State.tickDwell_eq, State.tickAlign_eq]
  simp only [State.posting_setMv, State.posting_mv, State.setMv_mv, State.setMv_setMv, State.posting_posting,
    Mover.dwellLater_alignTimer, ← Mover.msLater_eq]
  rfl

/-- The movers of a list tick one after the other, each once. -/
theorem State.foldl_tickMover {l : List MoverNo} (h : l.Nodup) (s : State) :
    l.foldl State.tickMover s =
      { s with movers := Vector.ofFn fun m => if m ∈ l then (s.mv m).msLater else s.mv m }.posting
        (l.flatMap fun m => (s.mv m).expiries m) := by
  induction l generalizing s with
  | nil =>
    have : s.movers = Vector.ofFn s.mv := by ext i hi; simp [State.mv]
    simp [← this, State.posting]
  | cons a l ih =>
    obtain ⟨ha, hl⟩ := List.nodup_cons.1 h
    have others (m : MoverNo) (hm : m ∈ l) : (s.setMv a (s.mv a).msLater).mv m = s.mv m :=
      s.setMv_mv_ne (ne_of_mem_of_not_mem hm ha) _
    have later (m : MoverNo) :
        (if m ∈ l then ((s.setMv a (s.mv a).msLater).mv m).msLater else (s.setMv a (s.mv a).msLater).mv m) =
          if m ∈ a :: l then (s.mv m).msLater else s.mv m := by
      by_cases hm : m ∈ l
      · simp [hm, others m hm]
      · by_cases e : m = a
        · simp [e, ha]
        · simp [hm, e, s.setMv_mv_ne e]
    have expire : l.flatMap (fun m => ((s.setMv a (s.mv a).msLater).mv m).expiries m) = l.flatMap fun m => (s.mv m).expiries m :=
      List.flatMap_congr fun m hm => by rw [others m hm]
    calc (a :: l).foldl State.tickMover s
        = l.foldl State.tickMover ((s.setMv a (s.mv a).msLater).posting ((s.mv a).expiries a)) := by
          rw [List.foldl_cons, State.tickMover_eq]
      _ = ({ s with movers := Vector.ofFn fun m => if m ∈ a :: l then (s.mv m).msLater else s.mv m }.posting
            ((s.mv a).expiries a)).posting (l.flatMap fun m => (s.mv m).expiries m) := by
          rw [ih hl, ← expire, ← funext later]
          rfl
      _ = _ := State.posting_posting _ _ _

/-! ## The other timers, and the line on TXD -/

/-- What a line's timers post within the millisecond. -/
def LineCtl.expiries (c : LineCtl) (l : LineId) : List Instr :=
  dueExpiry c.response (c.phase.timeout l) ++ dueExpiry c.period (.linePeriodExpiry l)

/-- The end of the line on TXD, where its last bit is out within the millisecond. -/
def State.lineEndDue (s : State) : List Instr :=
  if s.link.tx.any (fun l => decide (l.left ≤ s.pins.msBits)) then [.transmitLineEnd] else []

theorem State.tickLine_eq (s : State) (l : LineId) :
    s.tickLine l = (s.modLine l LineCtl.msLater).posting ((s.line l).expiries l) := by
  simp only [State.tickLine, State.postIf_eq_posting, State.posting_posting]
  rfl

theorem State.tickRelease_eq (s : State) :
    s.tickRelease =
      { s with wx := { s.wx with releaseTimer := afterMs s.wx.releaseTimer } }.posting
        (dueExpiry s.wx.releaseTimer .releaseTimerExpiry) := by
  unfold State.tickRelease
  split
  · next n h => rw [State.postIf_eq_posting, h]; rfl
  · next h =>
    rw [h]
    exact congrArg (fun t => { s with wx := { s.wx with releaseTimer := t } }) h

theorem State.tickSupervision_eq (s : State) :
    s.tickSupervision =
      { s with link := { s.link with sup := { s.link.sup with timer := afterMs s.link.sup.timer } } }.posting
        (dueExpiry s.link.sup.timer .supervisionTimerExpiry) := by
  unfold State.tickSupervision
  split
  · next n h => rw [State.postIf_eq_posting, h]; rfl
  · next h =>
    rw [h]
    exact congrArg (fun t => { s with link := { s.link with sup := { s.link.sup with timer := t } } }) h

theorem State.tickTransmitter_eq (s : State) :
    s.tickTransmitter =
      State.posting { s with link := { s.link with tx := s.link.tx.map fun l => { l with left := l.left - s.pins.msBits } } }
        s.lineEndDue := by
  unfold State.tickTransmitter State.lineEndDue
  split
  · next t h => rw [State.postIf_eq_posting, h]; rfl
  · next h =>
    rw [h]
    exact congrArg (fun t => { s with link := { s.link with tx := t } }) h

/-! ## The millisecond -/

/-- What the timers post, in the order of log entry 2. -/
theorem State.expiries_eq (s : State) :
    s.expiries =
      dueExpiry s.link.sup.timer .supervisionTimerExpiry ++ s.lineA.expiries .A ++ s.lineB.expiries .B ++
        allMovers.flatMap (fun m => (s.mv m).expiries m) ++ dueExpiry s.wx.releaseTimer .releaseTimerExpiry := rfl

/-- Every event that a millisecond can post. -/
def tickEvents : List Instr :=
  let ofLine (l : LineId) : List Instr := [.serviceTimeout l, .responseTimeout l, .linePeriodExpiry l]
  let ofMover (m : MoverNo) : List Instr := [.tlockExpiry m, .tbrkExpiry m, .tstopExpiry m, .dwellExpiry m, .alignTimerExpiry m]
  [.supervisionTimerExpiry] ++ ofLine .A ++ ofLine .B ++ allMovers.flatMap ofMover ++ [.releaseTimerExpiry] ++ [.transmitLineEnd]

theorem tickEvents_nodup : tickEvents.Nodup := by decide +kernel

theorem LineCtl.expiries_sublist (c : LineCtl) (l : LineId) :
    (c.expiries l).Sublist [.serviceTimeout l, .responseTimeout l, .linePeriodExpiry l] := by
  have timeout : [c.phase.timeout l].Sublist [.serviceTimeout l, .responseTimeout l] := by
    cases c.phase <;> simp [LinePhase.timeout]
  exact ((dueExpiry_sublist _ _).trans timeout).append (dueExpiry_sublist _ _)

theorem Mover.expiries_sublist (x : Mover) (m : MoverNo) :
    (x.expiries m).Sublist [.tlockExpiry m, .tbrkExpiry m, .tstopExpiry m, .dwellExpiry m, .alignTimerExpiry m] :=
  ((((dueExpiry_sublist _ _).append (dueExpiry_sublist _ _)).append (dueExpiry_sublist _ _)).append
    (dueExpiry_sublist _ _)).append (dueExpiry_sublist _ _)

theorem State.lineEndDue_sublist (s : State) : s.lineEndDue.Sublist [.transmitLineEnd] := by
  unfold State.lineEndDue
  split
  · exact .refl _
  · exact List.nil_sublist _

theorem State.expiries_sublist (s : State) : (s.expiries ++ s.lineEndDue).Sublist tickEvents := by
  rw [State.expiries_eq]
  exact (((((dueExpiry_sublist _ _).append (s.lineA.expiries_sublist .A)).append (s.lineB.expiries_sublist .B)).append
    (List.Sublist.flatMap_right _ fun m _ => (s.mv m).expiries_sublist m)).append (dueExpiry_sublist _ _)).append s.lineEndDue_sublist

/-- Every block a millisecond later, with nothing posted yet. -/
def State.msLater (s : State) : State :=
  { s with
    timebase := s.timebase + 1
    movers := Vector.ofFn fun m => (s.mv m).msLater
    lineA := s.lineA.msLater
    lineB := s.lineB.msLater
    wx := { s.wx with releaseTimer := afterMs s.wx.releaseTimer }
    link :=
      { s.link with
        sup := { s.link.sup with timer := afterMs s.link.sup.timer }
        tx := s.link.tx.map fun l => { l with left := l.left - s.pins.msBits } } }

/-- The blocks tick one after the other; none reads what another has written or posted. -/
theorem State.tick_eq_posting {s : State} (h : s.pins.resetLow = false) :
    s.tick = s.msLater.posting (s.expiries ++ s.lineEndDue) := by
  have movers (t : State) : allMovers.foldl State.tickMover t =
      { t with movers := Vector.ofFn fun m => (t.mv m).msLater }.posting (allMovers.flatMap fun m => (t.mv m).expiries m) := by
    simpa [allMovers] using State.foldl_tickMover (List.nodup_finRange 8) t
  rw [State.tick, h, State.expiries_eq]
  simp only [← State.posting_posting]
  rw [if_neg Bool.false_ne_true, State.tickSupervision_eq, State.tickLine_eq _ .A, State.tickLine_eq _ .B, movers,
    State.tickRelease_eq, State.tickTransmitter_eq]
  rfl

theorem State.posting_of_posted_nil {s : State} {is : List Instr} (h : s.posted = []) (hn : is.Nodup) :
    s.posting is = { s with posted := is } := by
  rw [State.posting, h, foldl_joinNew_of_nodup (by simpa using hn), List.nil_append]

/-- Where nothing stands posted, what has run out is posted in its order: no event is posted twice. -/
theorem State.tick_eq {s : State} (hr : s.pins.resetLow = false) (hp : s.posted = []) :
    s.tick = { s.msLater with posted := s.expiries ++ s.lineEndDue } :=
  (State.tick_eq_posting hr).trans (State.posting_of_posted_nil hp (tickEvents_nodup.sublist s.expiries_sublist))

/-! ## The step on an empty queue -/

theorem State.ownNext_posted {s : State} {i : Instr} {rest : List Instr} (hr : s.pins.resetLow = false)
    (h : s.posted = i :: rest) : s.ownNext = some i := by
  simp [State.ownNext, hr, h]

theorem State.ownNext_buffered {s : State} {b : BufferedLine} {rest : List BufferedLine} (hr : s.pins.resetLow = false)
    (hp : s.posted = []) (hb : s.link.inputBuffer = b :: rest) (hw : s.link.executionReplyWaits = false) :
    s.ownNext = some b.command := by
  simp [State.ownNext, hr, hp, hb, hw]

theorem State.ownNext_none {s : State} (hp : s.posted = [])
    (h : s.link.inputBuffer = [] ∨ s.link.executionReplyWaits = true) : s.ownNext = none := by
  rcases h with h | h <;> simp [State.ownNext, hp, h]

theorem State.ownNext_resetLow {s : State} (h : s.pins.resetLow = true) : s.ownNext = none := if_pos h

theorem step_of_ownNext {s : State} {c : Instr} (hq : s.pending = []) (h : s.ownNext = some c) : step s = exec c s := by
  simp only [step, hq, h]

theorem step_of_ownNext_none {s : State} (hq : s.pending = []) (h : s.ownNext = none) : step s = .next s.tick := by
  simp only [step, hq, h]

theorem State.tick_resetLow {s : State} (h : s.pins.resetLow = true) : s.tick = s := if_pos h

/-- Settles O2, by the part's own choice (`ownNext`) and the equation of the millisecond (`State.tick_eq`). -/
theorem emptyQueueStepTakesOwnEventOrTick : Obligations.EmptyQueueStepTakesOwnEventOrTick := by
  intro s hq
  refine ⟨fun hr => ?_, fun hr => ⟨fun i rest hp => ?_, fun b rest hp hb hw => ?_, fun hp hbuf => ?_⟩⟩
  · rw [step_of_ownNext_none hq (State.ownNext_resetLow hr), State.tick_resetLow hr]
  · exact step_of_ownNext hq (State.ownNext_posted hr hp)
  · exact step_of_ownNext hq (State.ownNext_buffered hr hp hb hw)
  · rw [step_of_ownNext_none hq (State.ownNext_none hp hbuf), State.tick_eq hr hp]
    rfl

end Sys2Proof.Machine
end

section
/-! PROOF. Power and RESET (O12): how the part comes up, and the first line it sends where STOPIN is open. -/

namespace Sys2Proof.Machine

/-- The part just out of RESET with STOPIN open, before its first line. -/
def State.upOpen (s : State) (fast : Bool) : State := s.powerUp { stopOpen := true, fastLink := fast }

theorem State.upOpen_flagLetters (s : State) (fast : Bool) : (s.upOpen fast).flagLetters = ['W', 'E', 'Z'] := rfl

/-- The line of SAFETY STOP_OPEN at timebase 0 (R20, R168). -/
theorem State.upOpen_closeLine (s : State) (fast : Bool) :
    (s.upOpen fast).closeLine (Notice.parts ⟨.stopOpen, 0⟩ false) = "!SAFETY STOP_OPEN T=0 S=WEZ *11\r\n".toList := by
  rw [State.closeLine, State.flagField, State.upOpen_flagLetters]
  decide +kernel

theorem airTime_toList (t : String) : airTime t.toList = t.length * 10000 := by
  rw [airTime, String.length_toList, Nat.mul_assoc]

/-- STOPIN closed at the release: nothing waits to be sent. -/
theorem State.comeUp_closed (s : State) (fast : Bool) : s.comeUp false fast = s.powerUp { fastLink := fast } := rfl

/-- STOPIN open at the release: the notice raised is handed over at once. -/
theorem State.comeUp_open (s : State) (fast : Bool) :
    s.comeUp true fast = (s.upOpen fast).beginSending (Notice.parts ⟨.stopOpen, 0⟩ false) := rfl

theorem exec_powerOn_low (s : State) (stopOpen fast : Bool) :
    exec (.powerOn true stopOpen fast) s =
      .next (s.powerUp { resetLow := true, stopOpen := stopOpen, fastLink := s.pins.fastLink }) := rfl

theorem exec_powerOn_high (s : State) (stopOpen fast : Bool) :
    exec (.powerOn false stopOpen fast) s = .next (s.comeUp stopOpen fast) := rfl

theorem exec_resetAssert_high {s : State} (h : s.pins.resetLow = false) :
    exec .resetAssert s = .next (s.powerUp { s.pins with resetLow := true }) := by
  show Host.Outcome.next (if s.pins.resetLow then s else _) = _
  rw [h, if_neg Bool.false_ne_true]

theorem exec_resetRelease_low {s : State} (h : s.pins.resetLow = true) (fast : Bool) :
    exec (.resetRelease fast) s = .next (s.comeUp s.pins.stopOpen fast) := by
  show Host.Outcome.next (if s.pins.resetLow then _ else s) = _
  rw [if_pos h]

/-- Settles O12, by the two ways in which the part comes up: STOPIN closed, and STOPIN open. -/
theorem powerAndResetGivePowerUpValues : Obligations.PowerAndResetGivePowerUpValues := by
  intro s b stopOpen
  refine ⟨exec_powerOn_low s stopOpen b, ?_, ?_, exec_resetAssert_high, fun low => ?_⟩
  · rw [exec_powerOn_high, State.comeUp_closed]
    rfl
  · rw [exec_powerOn_high, State.comeUp_open, State.beginSending, State.upOpen_closeLine, airTime_toList]
    rfl
  · rw [exec_resetRelease_low low, exec_powerOn_high]

end Sys2Proof.Machine
end
